-- ==== Sys2Proof/Word.lean ====
section
/-! DEFINITION. The two word types of the block: the byte of every window, plane and PackBits stream
(10_state.md R22, 20_memory.md R55), and the 32-bit word of requests, responses and lengths
(30_encoding.md R70, R82; `LEN_BITS` of 00_scope.md R9). -/

namespace Sys2Proof

/-- One sample, one source byte, one destination byte (R10: a byte is 8 bits). -/
abbrev Byte := BitVec 8

/-- A request or response word (R70, R82), a length L, a capacity C, bytesPerLine (R9 `LEN_BITS`). -/
abbrev Word := BitVec 32

end Sys2Proof
end

