-- ==== Sys2Proof/Syntax.lean ====
section
/-! DEFINITION. The instructions: one constructor of `Instr` per row of spec/opcode_table.json. The first seven
rows are host requests (30_encoding.md R70 to R81), the last three are the tokens of the PackBits byte code (R84, R85). -/

namespace Sys2Proof

/-- The MODE field of an OPEN header (R73). -/
inductive ModeField where
  | mono1         -- 0b00 Monochrome1bit
  | gray8         -- 0b01 Gray8bit
  | rgb24         -- 0b10 RGB24bit
  | unrecognized  -- 0b11, legal, treated as Monochrome1bit (R101)
  deriving DecidableEq, Repr

/-- The TAG field of a SUBMIT header (R75). -/
inductive PlaneTag where
  | untagged  -- 0b00 None
  | red       -- 0b01
  | green     -- 0b10
  | blue      -- 0b11
  deriving DecidableEq, Repr

/-- One instruction. `srcp` and `dstp` say whether the window is present (R77); `len` is the operand word
SRC_LEN (L) and `cap` the operand word DST_CAP (C) (R74). -/
inductive Instr where
  /-- OPEN (R72, R172). -/
  | openSession (mode : ModeField) (n : BitVec 16) (align : Bool)
  /-- SUBMIT.RAW, COMP = 0x00 (R118). -/
  | submitRaw (tag : PlaneTag) (srcp dstp : Bool) (len cap : Word)
  /-- SUBMIT.FILL, COMP = 0x01 (R116). -/
  | submitFill (tag : PlaneTag) (srcp dstp : Bool) (len cap : Word)
  /-- SUBMIT.PACKBITS, COMP = 0x02 (R119). -/
  | submitPackBits (tag : PlaneTag) (srcp dstp : Bool) (len cap : Word)
  /-- SUBMIT.UNKNOWN, COMP in 0x03 .. 0xFF (R128). -/
  | submitUnknown (comp : Byte) (tag : PlaneTag) (srcp dstp : Bool) (len cap : Word)
  /-- CLOSE (R78, R180). -/
  | close
  /-- ILLEGAL: any header that no other row matches (R81, R200). -/
  | illegal (header : Word)
  /-- PB.NOP, control byte 0x80 (R123). -/
  | pbNop
  /-- PB.LIT, control byte 0b0nnnnnnn: `count` is c, and c + 1 literal bytes follow (R121). -/
  | pbLit (count : BitVec 7)
  /-- PB.REP, control byte 0b1kkkkkkk other than 0x80: `low` is c - 0x80, and the next byte is repeated
  257 - c times (R122). -/
  | pbRep (low : BitVec 7)
  deriving DecidableEq, Repr

/-- What an instruction is read from: the words of a request (R70) or one PackBits control byte (R84). -/
inductive Encoding where
  | request (words : List Word)
  | control (byte : Byte)
  deriving DecidableEq, Repr

/-- Why a sequence of words is no request: R70 gives a request one header and, by OP, no or two operand words. -/
inductive DecodeError where
  /-- Not even a header word. -/
  | noHeader
  /-- A legal header followed by another number of operand words than R70 fixes for its OP. -/
  | operandWords (given : Nat)
  deriving DecidableEq, Repr

end Sys2Proof
end

