-- ==== Sys2Proof/Decode.lean ====
section
/-! DEFINITION. Decoding of requests and of PackBits control bytes, total and with every refusal named, and after
it the encoder, both from the tables of 30_encoding.md R70 to R85. Words are exchanged whole (20_memory.md R55), so no
byte order enters. -/

namespace Sys2Proof

/-! ## Fields of a header (R71 to R79) -/

/-- OP, bits[1:0] (R71). -/
def opField (h : Word) : BitVec 2 := h.extractLsb' 0 2

/-- MODE of an OPEN header, bits[3:2] (R73). -/
def modeField (h : Word) : ModeField :=
  let b := h.extractLsb' 2 2
  if b = 0b00#2 then .mono1
  else if b = 0b01#2 then .gray8
  else if b = 0b10#2 then .rgb24
  else .unrecognized

/-- TAG of a SUBMIT header, bits[3:2] (R75). -/
def tagField (h : Word) : PlaneTag :=
  let b := h.extractLsb' 2 2
  if b = 0b00#2 then .untagged
  else if b = 0b01#2 then .red
  else if b = 0b10#2 then .green
  else .blue

/-- ALIGN of an OPEN header, bit 4 (R72). -/
def alignField (h : Word) : Bool := h.getLsbD 4

/-- N of an OPEN header, bits[31:16] (R72). -/
def nField (h : Word) : BitVec 16 := h.extractLsb' 16 16

/-- SRCP of a SUBMIT header, bit 4 (R74). -/
def srcpField (h : Word) : Bool := h.getLsbD 4

/-- DSTP of a SUBMIT header, bit 5 (R74). -/
def dstpField (h : Word) : Bool := h.getLsbD 5

/-- COMP of a SUBMIT header, bits[15:8] (R76). -/
def compField (h : Word) : Byte := h.extractLsb' 8 8

/-- The reserved bits of the header's format are all 0 (R72, R74, R78); OP = 0b00 has no format (R71). -/
def legalHeader (h : Word) : Bool :=
  if opField h = 0b01#2 then h.extractLsb' 5 11 = 0#11
  else if opField h = 0b10#2 then h.extractLsb' 16 16 = 0#16 && h.extractLsb' 6 2 = 0#2
  else if opField h = 0b11#2 then h.extractLsb' 2 30 = 0#30
  else false

/-! ## The decoder -/

/-- A legal SUBMIT header with its operand words (R74); COMP is tested against 0x00, 0x01 and 0x02 exactly (R76). -/
def decodeSubmit (h len cap : Word) : Instr :=
  if compField h = 0x00#8 then .submitRaw (tagField h) (srcpField h) (dstpField h) len cap
  else if compField h = 0x01#8 then .submitFill (tagField h) (srcpField h) (dstpField h) len cap
  else if compField h = 0x02#8 then .submitPackBits (tagField h) (srcpField h) (dstpField h) len cap
  else .submitUnknown (compField h) (tagField h) (srcpField h) (dstpField h) len cap

/-- A request's words (R70). The legality of the header is looked at before anything else (R200), so an illegal
header is the ILLEGAL row whatever words follow it; a legal one must carry the operand words its OP fixes. -/
def decodeRequest (words : List Word) : Except DecodeError Instr :=
  match words with
  | [] => .error .noHeader
  | h :: operands =>
    if legalHeader h then
      if opField h = 0b10#2 then
        match operands with
        | [len, cap] => .ok (decodeSubmit h len cap)
        | _ => .error (.operandWords operands.length)
      else
        match operands with
        | [] =>
          if opField h = 0b01#2 then .ok (.openSession (modeField h) (nField h) (alignField h))
          else .ok .close
        | _ => .error (.operandWords operands.length)
    else .ok (.illegal h)

/-- A PackBits control byte (R84); every value has a meaning (R85). -/
def decodeControl (c : Byte) : Instr :=
  if c ≤ 0x7F#8 then .pbLit (c.extractLsb' 0 7)
  else if c = 0x80#8 then .pbNop
  else .pbRep (c.extractLsb' 0 7)

/-- The decoder. -/
def decode (e : Encoding) : Except DecodeError Instr :=
  match e with
  | .request words => decodeRequest words
  | .control c => .ok (decodeControl c)

/-! ## The encoder -/

/-- The MODE field of R73. -/
def ModeField.bits (m : ModeField) : BitVec 2 :=
  match m with
  | .mono1 => 0b00#2
  | .gray8 => 0b01#2
  | .rgb24 => 0b10#2
  | .unrecognized => 0b11#2

/-- The TAG field of R75. -/
def PlaneTag.bits (t : PlaneTag) : BitVec 2 :=
  match t with
  | .untagged => 0b00#2
  | .red => 0b01#2
  | .green => 0b10#2
  | .blue => 0b11#2

/-- The OPEN header of R72. -/
def openHeader (mode : ModeField) (n : BitVec 16) (align : Bool) : Word :=
  n ++ 0#11 ++ BitVec.ofBool align ++ mode.bits ++ 0b01#2

/-- The SUBMIT header of R74. -/
def submitHeader (comp : Byte) (tag : PlaneTag) (srcp dstp : Bool) : Word :=
  0#16 ++ comp ++ 0#2 ++ BitVec.ofBool dstp ++ BitVec.ofBool srcp ++ tag.bits ++ 0b10#2

/-- The CLOSE header of R78. -/
def closeHeader : Word := 0x00000003#32

/-- The words, or the control byte, of an instruction. -/
def encode (i : Instr) : Encoding :=
  match i with
  | .openSession mode n align => .request [openHeader mode n align]
  | .submitRaw tag srcp dstp len cap => .request [submitHeader 0x00#8 tag srcp dstp, len, cap]
  | .submitFill tag srcp dstp len cap => .request [submitHeader 0x01#8 tag srcp dstp, len, cap]
  | .submitPackBits tag srcp dstp len cap => .request [submitHeader 0x02#8 tag srcp dstp, len, cap]
  | .submitUnknown comp tag srcp dstp len cap => .request [submitHeader comp tag srcp dstp, len, cap]
  | .close => .request [closeHeader]
  | .illegal header => .request [header]
  | .pbNop => .control 0x80#8
  | .pbLit count => .control (0#1 ++ count)
  | .pbRep low => .control (1#1 ++ low)

/-! ## The opcode table's numbering -/

/-- The words of a request whose bits are `w`, bit 0 the least significant bit of the header: the header, and two
operand words after it where its OP is SUBMIT's (R70). -/
def tableWords (w : Nat) : List Word :=
  let h : Word := BitVec.ofNat 32 w
  if opField h = 0b10#2 then [h, BitVec.ofNat 32 (w >>> 32), BitVec.ofNat 32 (w >>> 64)] else [h]

/-- What an opcode-table row of `nbits` bits with the bits `w` stands for: a control byte for the 8-bit rows, the
words of a request for the others. -/
def tableEncoding (nbits w : Nat) : Encoding :=
  if nbits ≤ 8 then .control (BitVec.ofNat 8 w) else .request (tableWords w)

/-- The instruction that the decoder reads from a table row's bits. -/
def decodeTableWord (nbits w : Nat) : Option Instr :=
  match decode (tableEncoding nbits w) with
  | .ok i => some i
  | .error _ => none

end Sys2Proof
end

