-- ==== Sys2Proof/Config.lean ====
section
/-! DEFINITION. What an implementation fixes (00_scope.md R9) and the free values (70_reset_and_hazards.md R230). -/

namespace Sys2Proof

/-- The one parameter that R9 leaves open, `PLANE_DEPTH`: the bytes of each of the three plane buffers.
It is fixed when the block is built (R234); the model carries it in `State` and no step writes it.
DESIGN CHOICE, log 1 (safe for statements over every state, unsafe for runs from reset). -/
structure Config where
  planeDepth : Nat
  deriving DecidableEq, Repr

/-- `N_BITS` (R9): the width of the pixel count. -/
abbrev Config.nBits : Nat := 16

/-- `ALIGN_UNIT` (R9, R103). -/
abbrev Config.alignUnit : Nat := 4

/-- `MULTILINE_FACTOR` (R9, R104). -/
abbrev Config.multilineFactor : Nat := 16

/-- `QUANT_THRESHOLD` (R9, R144): fixed and non-configurable. -/
abbrev Config.quantThreshold : Nat := 128

/-- `WHITE` (R9, R117): the WhiteFill byte. -/
abbrev Config.white : Byte := 0xFF#8

/-- FREE VALUE: the destination bytes that an operation abandoned by a reset may have written "hold
unspecified values; the model treats them as any value" (R230). The k-th draw of the run is `freeByte k`;
nothing can be proved of it. Log 6 (safe). -/
opaque Config.freeByte : Nat → Byte

end Sys2Proof
end

