-- ==== Sys2Proof/Machine/State.lean ====
section
/-! DEFINITION. The state of one block instance (10_state.md R22, R33), the host's side of its interface (R36,
30_encoding.md R70, R82; 70_reset_and_hazards.md R230), and the state after reset (R35). Plain data throughout. -/

namespace Sys2Proof.Machine

/-- A sparse byte array: (offset, byte) pairs; an offset that is not listed reads 0x00. Canonical form: offsets
strictly rising, no listed byte 0x00 (`Memory.wf`). -/
abbrev Memory := List Host.Cell

/-- A host window (R50, R65): `size` bytes, at offsets 0 to size - 1; `bytes` lists none past them (`Window.wf`), and no
operation goes past them. -/
structure Window where
  size  : Nat
  bytes : Memory
  deriving DecidableEq, Repr

/-- S0 `LC` (R23). The value 3 is never held (DEDUCED, log 11, safe). -/
inductive Lifecycle where
  | unopened  -- 0
  | opened    -- 1
  | closed    -- 2
  deriving DecidableEq, Repr

/-- S1 `MODE`, the effective colour mode (R24). The value 3 is never held (log 11). -/
inductive ColorMode where
  | mono1  -- 0 Monochrome1bit
  | gray8  -- 1 Gray8bit
  | rgb24  -- 2 RGB24bit
  deriving DecidableEq, Repr

/-- One of the three plane buffers (R30). -/
inductive Plane where
  | red
  | green
  | blue
  deriving DecidableEq, Repr

/-- S8, S9, S10 while they are allocated (R30). The unlisted bytes read 0x00, which is what R173 gives every byte
of a freshly allocated plane. -/
structure Planes where
  red   : Memory
  green : Memory
  blue  : Memory
  deriving DecidableEq, Repr

/-- The row state read off `RF` and `GF` (R29). -/
inductive RowState where
  | empty
  | haveRed
  | haveGreen
  | haveRedGreen
  deriving DecidableEq, Repr

/-- The layout that the configuration unit computes (R100): effective mode, bytesPerLine, maxMultiLineBufferBytes. -/
structure Layout where
  emode  : ColorMode
  bpl    : Word
  maxbuf : Word
  deriving DecidableEq, Repr

/-- The quantizer's registers (R33): the partial byte `acc`, its bit count, and the bytes packed before it. -/
structure Quantizer where
  acc    : Byte
  accCnt : BitVec 3
  packed : List Byte
  deriving DecidableEq, Repr

/-- A PackBits SUBMIT that is being performed: the transient registers of R33 with the request's operands. `tag`,
`srcLen` (L), `dstCap` (C) are the request's, `cap` is the sample capacity K chosen for it (R111), `inPos` is
`in_pos` (a Nat: DEDUCED, log 3), `ctl` the current control byte, `out` the samples produced so far, whose number is `out_cnt`. -/
structure PbRun where
  tag    : PlaneTag
  srcLen : Word
  dstCap : Word
  cap    : Nat
  inPos  : Nat
  ctl    : Byte
  out    : List Byte
  deriving DecidableEq, Repr

/-- What every SUBMIT form has (R74): TAG, SRCP, DSTP, L, C. -/
structure SubmitOperands where
  tag  : PlaneTag
  srcp : Bool
  dstp : Bool
  len  : Word
  cap  : Word
  deriving DecidableEq, Repr

/-- STATUS of response word 0 (R82); the value 7 is never returned. -/
inductive Status where
  | ok
  | emitted
  | buffered
  | fault
  | invalidConfig
  | allocationFailure
  | illegalCommand
  deriving DecidableEq, Repr

/-- The answer to one request (R82, R83). -/
structure Response where
  status : Status
  word1  : Word
  word2  : Word
  deriving DecidableEq, Repr

/-- One request as the host issues it: its words (R70), the bytes it provides for the two windows with their contents at
that moment (R36, R52), of which a SUBMIT gets the first L and C (R65), and whether it laid them over each other (R64). -/
structure Request where
  words   : List Word
  src     : Window
  dst     : Window
  overlap : Bool
  deriving DecidableEq, Repr

/-- What the host does to the block: issue a request (R13), reset it between operations, or reset it while the
given request is in progress (R230). -/
inductive HostEvent where
  | request (r : Request)
  | reset
  | resetDuring (r : Request)
  deriving DecidableEq, Repr

/-- The faults of the model. The block itself has none (R207): its errors are statuses of the response. -/
inductive Fault where
  /-- Raised by a SUBMIT that would write or read a plane buffer while none is allocated, which R30 calls a model
  error. Safe: no state that meets the invariant R34 reaches it. -/
  | planesNotAllocated
  deriving DecidableEq, Repr

/-- The refusals of the model. -/
inductive Refusal where
  /-- Raised by `exec` for an instruction that has no meaning yet; no arm uses it. Safe. -/
  | notModelled (mnemonic : String)
  /-- Raised by a SUBMIT, before its structural checks, and by every token and the end of one in progress, where both windows
  are present and overlap: "a model should refuse such a SUBMIT rather than compute it" (R64, R214). Safe (log 5). -/
  | overlappingWindows
  /-- Raised in the same places, whatever the form, where the host provides fewer than L bytes of a present source or C of a
  present destination: a broken duty, which has no defined run (R65, R214). Safe (log 13). -/
  | shortWindow
  /-- Raised by `step` for a request with another number of words than R70 gives it: no request at all. Safe. -/
  | malformedRequest (e : DecodeError)
  /-- Raised by the three PackBits tokens where no PackBits SUBMIT is being performed: a token exists only inside
  one (R21, R33). Safe. -/
  | tokenOutsidePackBits
  deriving DecidableEq, Repr

/-- The machine: the block's persistent state (R22), its transient registers (R33), the host's side (R36), and the
model's own two fields (`cfg`, `draws`). -/
structure State where
  /-- The parameter PLANE_DEPTH (R9), written by no step. -/
  cfg      : Config
  /-- S0 LC. -/
  lc       : Lifecycle
  /-- S1 MODE. -/
  mode     : ColorMode
  /-- S2 N. -/
  n        : BitVec 16
  /-- S3 ALIGN. -/
  align    : Bool
  /-- S4 BPL. -/
  bpl      : Word
  /-- S5 MAXBUF. -/
  maxbuf   : Word
  /-- S6 RF. -/
  rf       : Bool
  /-- S7 GF. -/
  gf       : Bool
  /-- S8, S9, S10; `none` while not allocated (R30: they then have no value). -/
  planes   : Option Planes
  /-- The transient registers of R33; `none` between operations. -/
  run      : Option PbRun
  /-- The source window (R51, R65). -/
  src      : Window
  /-- The destination window (R52, R65). -/
  dst      : Window
  /-- The host laid the two windows over each other (R64). -/
  overlap  : Bool
  /-- For the current SUBMIT the host provided fewer than L bytes of a present source or C of a present destination (R65,
  R214; log 13). -/
  short    : Bool
  /-- What the host does next, oldest first. -/
  inbox    : List HostEvent
  /-- The answer of the last operation (DESIGN CHOICE, log 10); `none` after a reset, which answers nothing (R230). -/
  response : Option Response
  /-- How many free values have been drawn (`Config.freeByte`). -/
  draws    : Nat
  deriving DecidableEq, Repr

/-- The state after reset (R35): Unopened, every element 0, no plane allocated. The host's side and the model's own
fields are at DESIGN CHOICE values: PLANE_DEPTH 65535 (log 1, unsafe), windows of no bytes (log 4) and no duty broken (log 5, log 13), no draw yet (log 6). -/
def State.reset : State where
  cfg := { planeDepth := 65535 }
  lc := .unopened
  mode := .mono1
  n := 0#16
  align := false
  bpl := 0#32
  maxbuf := 0#32
  rf := false
  gf := false
  planes := none
  run := none
  src := { size := 0, bytes := [] }
  dst := { size := 0, bytes := [] }
  overlap := false
  short := false
  inbox := []
  response := none
  draws := 0

end Sys2Proof.Machine
end

