-- ==== Sys2Proof/Machine/Ops.lean ====
section
/-! DEFINITION. The named operations over memory and state (20_memory.md R50 to R53): byte reads and writes of windows
and planes, the response (30_encoding.md R82), the clearing of a session (44_session_control.md R171), reset
(70_reset_and_hazards.md R230). The block has no trap entry and no trap return (60_exceptions.md R207, R208): its one
way to report an error is `State.respond`. -/

namespace Sys2Proof.Machine

/-! ## Sparse memory -/

/-- What an offset that no cell lists reads as: 0x00. For a plane this is R173's value; for a window it only represents
such bytes of the host's (log 4). -/
def Memory.unlisted : Byte := 0x00#8

/-- The byte at offset `a` (`SrcRead` R51, `PlaneRead` R53). -/
def Memory.read (m : Memory) (a : Nat) : Byte :=
  match m with
  | [] => Memory.unlisted
  | (k, v) :: rest => if k = a then v else Memory.read rest a

/-- The memory with no cell at offset `a`. -/
def Memory.erase (m : Memory) (a : Nat) : Memory := m.filter (fun c => c.1 ≠ a)

/-- The cell (a, b) put in its place among cells at other offsets. -/
def Memory.place (m : Memory) (a : Nat) (b : Byte) : Memory :=
  match m with
  | [] => [(a, b)]
  | (k, v) :: rest => if k < a then (k, v) :: Memory.place rest a b else (a, b) :: (k, v) :: rest

/-- Byte `b` written at offset `a` (`DstWrite` R52, `PlaneWrite` R53); a byte that reads as an unlisted one is not
listed. -/
def Memory.write (m : Memory) (a : Nat) (b : Byte) : Memory :=
  if b = Memory.unlisted then m.erase a else (m.erase a).place a b

/-- The canonical form: offsets strictly rising, no listed byte that an unlisted offset reads as. -/
abbrev Memory.wf (m : Memory) : Prop :=
  m.Pairwise (fun c d => c.1 < d.1) ∧ ∀ c ∈ m, c.2 ≠ Memory.unlisted

/-- `[m[start], ..., m[start + count - 1]]`, in increasing offset order (R57). -/
def Memory.readBytes (m : Memory) (start count : Nat) : List Byte :=
  match count with
  | 0 => []
  | k + 1 => m.read start :: Memory.readBytes m (start + 1) k

/-- The bytes of `bs` written from offset `start` on, in increasing offset order (R57). -/
def Memory.writeBytes (m : Memory) (start : Nat) (bs : List Byte) : Memory :=
  match bs with
  | [] => m
  | b :: rest => Memory.writeBytes (m.write start b) (start + 1) rest

/-! ## Windows (R50, R65) -/

/-- The byte at offset `a`; the rules ask only for offsets below the size (R51). -/
def Window.read (w : Window) (a : Nat) : Byte := w.bytes.read a

/-- `count` bytes from offset `start` on. -/
def Window.readBytes (w : Window) (start count : Nat) : List Byte := w.bytes.readBytes start count

/-- The bytes of `bs` written from offset `start` on; the size stays. -/
def Window.writeBytes (w : Window) (start : Nat) (bs : List Byte) : Window :=
  { w with bytes := w.bytes.writeBytes start bs }

/-- A window of exactly `k` bytes with the contents of `w`. -/
def Window.resize (w : Window) (k : Nat) : Window := { size := k, bytes := w.bytes.filter (fun c => c.1 < k) }

/-- The first `k` bytes of what the host provides, or all of it where that is less: "in a model the windows are exactly
L and C bytes long" (R65). -/
def Window.cut (w : Window) (k : Nat) : Window := w.resize (min w.size k)

/-- The canonical form of a window: its bytes canonical, none listed past its size. -/
abbrev Window.wf (w : Window) : Prop := w.bytes.wf ∧ ∀ c ∈ w.bytes, c.1 < w.size

/-! ## Plane buffers (R30, R53) -/

/-- Three planes whose every byte is 0x00 (R173). -/
def Planes.zeroed : Planes := { red := [], green := [], blue := [] }

/-- The bytes of one plane. -/
def Planes.get (ps : Planes) (p : Plane) : Memory :=
  match p with
  | .red => ps.red
  | .green => ps.green
  | .blue => ps.blue

/-- One plane's bytes replaced. -/
def Planes.set (ps : Planes) (p : Plane) (m : Memory) : Planes :=
  match p with
  | .red => { ps with red := m }
  | .green => { ps with green := m }
  | .blue => { ps with blue := m }

/-! ## Codes of the named values -/

/-- The 2 bits of `LC` (R22, R23). -/
def Lifecycle.code (l : Lifecycle) : BitVec 2 :=
  match l with
  | .unopened => 0#2
  | .opened => 1#2
  | .closed => 2#2

/-- The 2 bits of `MODE` (R22, R24). -/
def ColorMode.code (m : ColorMode) : BitVec 2 :=
  match m with
  | .mono1 => 0#2
  | .gray8 => 1#2
  | .rgb24 => 2#2

/-- The STATUS values of R82. -/
def Status.code (st : Status) : BitVec 3 :=
  match st with
  | .ok => 0#3
  | .emitted => 1#3
  | .buffered => 2#3
  | .fault => 3#3
  | .invalidConfig => 4#3
  | .allocationFailure => 5#3
  | .illegalCommand => 6#3

/-- Response word 0: STATUS in bits[2:0], bits[31:3] = 0 (R82). -/
def Response.word0 (r : Response) : Word := r.status.code.setWidth 32

/-- The three response words (R82). -/
def Response.words (r : Response) : List Word := [r.word0, r.word1, r.word2]

/-! ## State updates -/

/-- `respond(status, w1, w2)` (R12): the operation ends with this answer. -/
def State.respond (s : State) (status : Status) (w1 w2 : Word) : State :=
  { s with response := some { status := status, word1 := w1, word2 := w2 } }

/-- The destination window's new contents. -/
def State.setDst (s : State) (w : Window) : State := { s with dst := w }

/-- The plane buffers' new contents. -/
def State.setPlanes (s : State) (ps : Planes) : State := { s with planes := some ps }

/-- The row flags' new values. -/
def State.setFlags (s : State) (rf gf : Bool) : State := { s with rf := rf, gf := gf }

/-- The transient registers' new values. -/
def State.setRun (s : State) (u : PbRun) : State := { s with run := some u }

/-- The transient registers have no value any more (R33). -/
def State.endRun (s : State) : State := { s with run := none }

/-- `ClearSession()` (R171). -/
def State.clearSession (s : State) : State :=
  { s with
    planes := none
    mode := .mono1
    n := 0#16
    align := false
    bpl := 0#32
    maxbuf := 0#32
    rf := false
    gf := false
    lc := .closed }

/-- The end of a successful OPEN (R172): the session's elements, no row begun, Open. -/
def State.install (s : State) (g : Layout) (n : BitVec 16) (align : Bool) (planes : Option Planes) : State :=
  { s with
    planes := planes
    mode := g.emode
    n := n
    align := align
    bpl := g.bpl
    maxbuf := g.maxbuf
    rf := false
    gf := false
    lc := .opened }

/-- Reset between operations (R230): every element of the block at its reset value (R35), no answer. The parameter,
the host's windows and the host's further events are not the block's and stay. -/
def State.hardReset (s : State) : State :=
  { State.reset with
    cfg := s.cfg
    src := s.src
    dst := s.dst
    overlap := s.overlap
    short := s.short
    inbox := s.inbox
    draws := s.draws }

/-- `count` free bytes, the draws number `k`, `k + 1`, ... (R230; log 6). -/
def freeBytes (k count : Nat) : List Byte :=
  match count with
  | 0 => []
  | c + 1 => Config.freeByte k :: freeBytes (k + 1) c

/-- The destination bytes 0 .. C-1 of an abandoned operation hold any values (R230); the draws are counted. -/
def State.scrambleDst (s : State) (count : Nat) : State :=
  { s with dst := s.dst.writeBytes 0 (freeBytes s.draws count), draws := s.draws + count }

/-- The operands of a SUBMIT, of whatever form (R74); no other instruction has them. -/
def submitOperands (i : Instr) : Option SubmitOperands :=
  match i with
  | .openSession _ _ _ => none
  | .submitRaw tag srcp dstp len cap => some { tag, srcp, dstp, len, cap }
  | .submitFill tag srcp dstp len cap => some { tag, srcp, dstp, len, cap }
  | .submitPackBits tag srcp dstp len cap => some { tag, srcp, dstp, len, cap }
  | .submitUnknown _ tag srcp dstp len cap => some { tag, srcp, dstp, len, cap }
  | .close => none
  | .illegal _ => none
  | .pbNop => none
  | .pbLit _ => none
  | .pbRep _ => none

/-- The source window of the request `i`: a SUBMIT's is exactly L bytes long (R65). -/
def Request.srcFor (r : Request) (i : Instr) : Window :=
  match submitOperands i with
  | some o => r.src.cut o.len.toNat
  | none => r.src

/-- The destination window of the request `i`: a SUBMIT's is exactly C bytes long (R65). -/
def Request.dstFor (r : Request) (i : Instr) : Window :=
  match submitOperands i with
  | some o => r.dst.cut o.cap.toNat
  | none => r.dst

/-- The host breaks its duty about the windows' sizes in the request `i`: for a SUBMIT, of whatever form, it provides fewer
than L bytes of a source or C of a destination that it does not mark absent (R65, R66, R214). -/
def Request.shortFor (r : Request) (i : Instr) : Bool :=
  match submitOperands i with
  | some o => decide ((o.srcp = true ∧ r.src.size < o.len.toNat) ∨ (o.dstp = true ∧ r.dst.size < o.cap.toNat))
  | none => false

/-- The host issues the request `i`: it leaves the inbox `rest` behind, the windows stand as it placed them (R59), and
whether it kept its duties about them is noted (R214). -/
def State.load (s : State) (r : Request) (i : Instr) (rest : List HostEvent) : State :=
  { s with src := r.srcFor i, dst := r.dstFor i, overlap := r.overlap, short := r.shortFor i, inbox := rest }

/-- Which SUBMITs reach the destination window (R50): every one in a Gray or Monochrome session, those tagged Blue in
an RGB session. -/
def State.reachesDst (s : State) (tag : PlaneTag) : Bool :=
  match s.mode with
  | .mono1 => true
  | .gray8 => true
  | .rgb24 => tag = .blue

/-- What a step answers. -/
abbrev Result := Host.Outcome State Fault Refusal

/-- The host has kept its duties (R214) about the windows of a SUBMIT that reaches `len` source and `cap` destination bytes:
where both are present they are apart (R64, R246), it provided L and C bytes of those that are (R65), and what the SUBMIT
reaches is there. A window that is marked absent has no bytes to provide or to lay over the other (R66). -/
abbrev State.dutiesKept (s : State) (srcp dstp : Bool) (len cap : Word) : Prop :=
  (srcp = true → dstp = true → s.overlap = false) ∧ s.short = false ∧
    (srcp = true → len.toNat ≤ s.src.size) ∧ (dstp = true → cap.toNat ≤ s.dst.size)

/-- The same duties where both windows are present. -/
abbrev State.windowsOk (s : State) (len cap : Word) : Prop :=
  s.overlap = false ∧ s.short = false ∧ len.toNat ≤ s.src.size ∧ cap.toNat ≤ s.dst.size

/-- Why a SUBMIT on these windows is refused: overlapping windows (R64), then short ones (R65, log 13). -/
def State.unfit (s : State) (srcp dstp : Bool) (len cap : Word) : Option Refusal :=
  if s.dutiesKept srcp dstp len cap then none
  else if srcp && dstp && s.overlap then some .overlappingWindows
  else some .shortWindow

/-- `x` on windows for which the host has kept its duties, a refusal on any others. -/
def State.onWindows (s : State) (srcp dstp : Bool) (len cap : Word) (x : Result) : Result :=
  match s.unfit srcp dstp len cap with
  | some r => .refused r
  | none => x

/-- Reset while the operation `i` is in progress (R230): it is abandoned without an answer and the block is reset.
Where it is a SUBMIT that passes its checks (R201) and reaches the destination, bytes 0 .. C-1 of the destination hold
any values; bad windows are refused as in the operation itself (R64, R65, R214). -/
def State.abandon (s : State) (i : Instr) : Result :=
  match submitOperands i with
  | none => .next s.hardReset
  | some o =>
    s.onWindows o.srcp o.dstp o.len o.cap
      (.next (if s.lc = .opened ∧ o.srcp = true ∧ o.dstp = true ∧ s.reachesDst o.tag = true then
        s.hardReset.scrambleDst o.cap.toNat else s.hardReset))

end Sys2Proof.Machine
end

