-- ==== Sys2Proof/Machine/Flags.lean ====
section
/-! DEFINITION. The row flags RF and GF and the row state read off them (10_state.md R28, R29; 43_plane_assembler.md
R151, R153, R154). The block has no condition codes. -/

namespace Sys2Proof.Machine

/-- The row state (R29); Complete is never held between operations. -/
def State.rowState (s : State) : RowState :=
  match s.rf, s.gf with
  | false, false => .empty
  | true, false => .haveRed
  | false, true => .haveGreen
  | true, true => .haveRedGreen

/-- A Red record has come in (R151). -/
def State.markRed (s : State) : State := s.setFlags true s.gf

/-- A Green record has come in (R151). -/
def State.markGreen (s : State) : State := s.setFlags s.rf true

/-- Every Blue record ends the row (R153, R154, R158 (d)). -/
def State.clearRow (s : State) : State := s.setFlags false false

end Sys2Proof.Machine
end

