-- ==== Sys2Proof/Machine/Geometry.lean ====
section
/-! DEFINITION. The configuration unit: line geometry (40_format_negotiator.md R100 to R106). -/

namespace Sys2Proof.Machine

/-- `ceil(a / b)` (R10). -/
def ceilDiv (a b : Nat) : Nat := (a + (b - 1)) / b

/-- The effective mode: an unrecognized mode is Monochrome1bit (R101). -/
def effectiveMode (m : ModeField) : ColorMode :=
  match m with
  | .mono1 => .mono1
  | .gray8 => .gray8
  | .rgb24 => .rgb24
  | .unrecognized => .mono1

/-- Unaligned bytes per line (R102). -/
def baseBytes (m : ColorMode) (n : Nat) : Nat :=
  match m with
  | .mono1 => ceilDiv n 8
  | .gray8 => n
  | .rgb24 => 3 * n

/-- Alignment: the least multiple of 4 not below (R103). -/
def alignBytes (align : Bool) (base : Nat) : Nat :=
  if align then Config.alignUnit * ceilDiv base Config.alignUnit else base

/-- `Geometry(mode, n, align)` (R105); `none` is InvalidConfig (R106). The 32-bit results never overflow (R107). -/
def geometry (m : ModeField) (n : BitVec 16) (align : Bool) : Option Layout :=
  if n = 0#16 then none
  else
    let bpl := alignBytes align (baseBytes (effectiveMode m) n.toNat)
    some
      { emode := effectiveMode m
        bpl := BitVec.ofNat 32 bpl
        maxbuf := BitVec.ofNat 32 (Config.multilineFactor * bpl) }

end Sys2Proof.Machine
end

