-- ==== Sys2Proof/Machine/Quantizer.lean ====
section
/-! DEFINITION. The bit quantizer (42_bit_quantizer.md R140 to R145), as a stream through its two registers, the partial
byte and its bit count (10_state.md R33). -/

namespace Sys2Proof.Machine

/-- No sample quantized yet: the byte starts as 0x00 (R143). -/
def Quantizer.start : Quantizer := { acc := 0x00#8, accCnt := 0#3, packed := [] }

/-- The bit of one sample: 1 from the threshold up (R144). -/
def quantBit (sample : Byte) : Bool := Config.quantThreshold ≤ sample.toNat

/-- One sample goes to bit 7 - (i mod 8) of the partial byte (R141); a full byte is put out. -/
def Quantizer.push (q : Quantizer) (sample : Byte) : Quantizer :=
  let acc := if quantBit sample then q.acc ||| (0x80#8 >>> q.accCnt.toNat) else q.acc
  if q.accCnt = 7#3 then { acc := 0x00#8, accCnt := 0#3, packed := q.packed ++ [acc] }
  else { acc := acc, accCnt := q.accCnt + 1#3, packed := q.packed }

/-- The end of the samples: a partial byte is put out with its padding bits 0 (R143). -/
def Quantizer.flush (q : Quantizer) : List Byte :=
  if q.accCnt = 0#3 then q.packed else q.packed ++ [q.acc]

/-- The quantizer after the samples of `seq`. -/
def Quantizer.after (seq : List Byte) : Quantizer := seq.foldl Quantizer.push Quantizer.start

/-- `Quantize(seq)` (R142). -/
def quantize (seq : List Byte) : List Byte := (Quantizer.after seq).flush

end Sys2Proof.Machine
end

