-- ==== Sys2Proof/Machine/Operands.lean ====
section
/-! DEFINITION. Where a SUBMIT's samples come from and how many it takes: the sample capacity of a span
(41_line_decompressor.md R111), RawCopy (R118), WhiteFill (R114), and the PackBits token machine (R120 to R124). -/

namespace Sys2Proof.Machine

/-- The sample capacity K of the span that a SUBMIT of capacity C fills, by the session's mode (R111). -/
def State.sampleCap (s : State) (cap : Word) : Nat :=
  match s.mode with
  | .gray8 => cap.toNat
  | .mono1 => min s.n.toNat (8 * cap.toNat)
  | .rgb24 => s.n.toNat

/-- `Decode(RawCopy, s, K) = take(K, s) = s[0 : min(L, K)]` (R118). -/
def rawSamples (src : Window) (len : Word) (k : Nat) : List Byte := src.readBytes 0 (min len.toNat k)

/-- `rep(k, 0xFF)`: what WhiteFill puts into a span of k bytes (R114, R117). -/
def whiteSamples (k : Nat) : List Byte := List.replicate k Config.white

/-! ## The PackBits token machine -/

/-- `out_cnt` (R33): the number of samples produced so far. -/
def PbRun.outCnt (u : PbRun) : Nat := u.out.length

/-- `acc` (R33): the quantizer's partial byte after the samples produced so far. -/
def PbRun.acc (u : PbRun) : Byte := (Quantizer.after u.out).acc

/-- The bit count of `acc` (R33). -/
def PbRun.accCnt (u : PbRun) : BitVec 3 := (Quantizer.after u.out).accCnt

/-- A PackBits decode begins: nothing read, nothing produced (R120). Until the first control byte is read `ctl` has no
value in the spec (R33); the model starts it at 0x00 (DESIGN CHOICE, log 14; no operation reads it). -/
def PbRun.start (tag : PlaneTag) (srcLen dstCap : Word) (cap : Nat) : PbRun :=
  { tag := tag, srcLen := srcLen, dstCap := dstCap, cap := cap, inPos := 0, ctl := 0x00#8, out := [] }

/-- "Stop on input exhaustion or destination-capacity exhaustion, whichever comes first" (R124). -/
def PbRun.exhausted (u : PbRun) : Bool := u.srcLen.toNat ≤ u.inPos || u.cap ≤ u.outCnt

/-- Samples appended up to the capacity; the rest of a run is dropped (R124). -/
def PbRun.emit (u : PbRun) (bs : List Byte) : PbRun := { u with out := (u.out ++ bs).take u.cap }

/-- The run length of PB.LIT: n = c + 1 (R84, R121). -/
def litLength (count : BitVec 7) : Nat := count.toNat + 1

/-- The run length of PB.REP: k = 257 - c with c = 0x80 + low (R84, R122). -/
def repLength (low : BitVec 7) : Nat := 257 - (0x80 + low.toNat)

/-- PB.LIT (R121): the next n source bytes, or those that remain, are copied; `in_pos` advances by 1 + n. -/
def PbRun.lit (u : PbRun) (src : Window) (count : BitVec 7) : PbRun :=
  let first := u.inPos + 1
  let stop := min (first + litLength count) u.srcLen.toNat
  { u.emit (src.readBytes first (stop - first)) with
    inPos := first + litLength count
    ctl := 0#1 ++ count }

/-- PB.REP (R122): the next source byte is repeated k times, nothing where no byte remains; `in_pos` advances by 2. -/
def PbRun.rep (u : PbRun) (src : Window) (low : BitVec 7) : PbRun :=
  let first := u.inPos + 1
  { u.emit (if first < u.srcLen.toNat then List.replicate (repLength low) (src.read first) else []) with
    inPos := first + 1
    ctl := 1#1 ++ low }

/-- PB.NOP (R123): nothing is appended; `in_pos` advances by 1. -/
def PbRun.nop (u : PbRun) : PbRun := { u with inPos := u.inPos + 1, ctl := 0x80#8 }

/-- The control byte at `in_pos`. -/
def PbRun.fetch (u : PbRun) (src : Window) : Byte := src.read u.inPos

/-- One turn of the loop of R120: the control byte is read and its token performed. -/
def PbRun.token (u : PbRun) (src : Window) : PbRun :=
  let c := u.fetch src
  if c ≤ 0x7F#8 then u.lit src (c.extractLsb' 0 7)
  else if c = 0x80#8 then u.nop
  else u.rep src (c.extractLsb' 0 7)

/-- The loop of R120, at most `fuel` turns. -/
def PbRun.drain (fuel : Nat) (src : Window) (u : PbRun) : PbRun :=
  match fuel with
  | 0 => u
  | f + 1 => if u.exhausted then u else PbRun.drain f src (u.token src)

/-- `Decode(PackBits, s, K)` (R119): the samples of a whole PackBits record. Every turn advances `in_pos` by at least
1 (R124), so L turns are enough. -/
def packBitsSamples (src : Window) (len : Word) (k : Nat) : List Byte :=
  (PbRun.drain len.toNat src (PbRun.start .untagged len 0#32 k)).out

end Sys2Proof.Machine
end

