-- ==== Sys2Proof/Machine/Sinks.lean ====
section
/-! DEFINITION. Where a SUBMIT's samples go: the sinks of Gray and Monochrome sessions (41_line_decompressor.md R112 to
R115), the plane assembler (43_plane_assembler.md R150 to R157), and the routing and the structural checks that all
SUBMIT forms share (44_session_control.md R175, R177). -/

namespace Sys2Proof.Machine

/-- EMITTED with `bytes` written from destination offset 0 (R178). -/
def emitLine (bytes : List Byte) (s : State) : State :=
  (s.setDst (s.dst.writeBytes 0 bytes)).respond .emitted (BitVec.ofNat 32 bytes.length) 0#32

/-- `ByteSink` in a Gray session (R112). -/
def byteSink (seq : List Byte) (s : State) : State := emitLine seq s

/-- `MonoSink` in a Monochrome session (R113). -/
def monoSink (seq : List Byte) (s : State) : State := emitLine (quantize seq) s

/-- `FillSpan` of the whole destination, byte span or packed-bit span: all C bytes, not through the quantizer (R114). -/
def fillDst (cap : Word) (s : State) : State := emitLine (whiteSamples cap.toNat) s

/-! ## The plane assembler -/

/-- `PlaneSink(p, seq)` (R115): the plane's bytes from index 0 on; the others keep their values. -/
def planeSink (p : Plane) (seq : List Byte) (ps : Planes) : Planes := ps.set p ((ps.get p).writeBytes 0 seq)

/-- The pixels that an emitted row gives: P = min(N, floor(C / 3)) (R153). -/
def rowPixels (n : BitVec 16) (cap : Word) : Nat := min n.toNat (cap.toNat / 3)

/-- R[i], G[i], B[i] for `count` pixels from `i` on (R156). -/
def interleave (ps : Planes) (i count : Nat) : List Byte :=
  match count with
  | 0 => []
  | k + 1 => ps.red.read i :: ps.green.read i :: ps.blue.read i :: interleave ps (i + 1) k

/-- A Red or a Green record (R151). -/
def assembleRed (seq : List Byte) (ps : Planes) (s : State) : State :=
  (s.setPlanes (planeSink .red seq ps)).markRed.respond .buffered 0#32 0#32

/-- See `assembleRed`. -/
def assembleGreen (seq : List Byte) (ps : Planes) (s : State) : State :=
  (s.setPlanes (planeSink .green seq ps)).markGreen.respond .buffered 0#32 0#32

/-- A Blue record: decoded into its plane in every case (R152); a complete row is emitted (R153), any other is
dropped without an error (R154); the row ends. -/
def assembleBlue (seq : List Byte) (cap : Word) (ps : Planes) (s : State) : State :=
  let t := s.setPlanes (planeSink .blue seq ps)
  match s.rowState with
  | .haveRedGreen => emitLine (interleave (planeSink .blue seq ps) 0 (rowPixels s.n cap)) t.clearRow
  | .empty => t.clearRow.respond .buffered 0#32 0#32
  | .haveRed => t.clearRow.respond .buffered 0#32 0#32
  | .haveGreen => t.clearRow.respond .buffered 0#32 0#32

/-- A SUBMIT in an RGB session, by its tag (R150); `seq` is what it decodes to with K = N. An untagged record is
ignored (R155). -/
def assemble (tag : PlaneTag) (seq : List Byte) (cap : Word) (s : State) : Result :=
  match tag, s.planes with
  | .untagged, _ => .next (s.respond .buffered 0#32 0#32)
  | .red, some ps => .next (assembleRed seq ps s)
  | .green, some ps => .next (assembleGreen seq ps s)
  | .blue, some ps => .next (assembleBlue seq cap ps s)
  | .red, none => .fault .planesNotAllocated
  | .green, none => .fault .planesNotAllocated
  | .blue, none => .fault .planesNotAllocated

/-! ## Routing -/

/-- The decoded samples of a record go to the sink of the session's mode (R177); in Gray and Monochrome sessions the
tag is ignored. -/
def deliver (seq : List Byte) (tag : PlaneTag) (cap : Word) (s : State) : Result :=
  match s.mode with
  | .gray8 => .next (byteSink seq s)
  | .mono1 => .next (monoSink seq s)
  | .rgb24 => assemble tag seq cap s

/-- A WhiteFill record (R116, R177). -/
def deliverFill (tag : PlaneTag) (cap : Word) (s : State) : Result :=
  match s.mode with
  | .gray8 => .next (fillDst cap s)
  | .mono1 => .next (fillDst cap s)
  | .rgb24 => assemble tag (whiteSamples s.n.toNat) cap s

/-- The part that every SUBMIT shares (R175): where the host broke a duty about the windows there is no run, a FAULT neither
(R64, R65, R214; log 5, log 13); then FAULT without an open session, then FAULT with a window absent (R201, R206); then the
form's own `body`. -/
def submit (srcp dstp : Bool) (len cap : Word) (body : State → Result) (s : State) : Result :=
  s.onWindows srcp dstp len cap
    (if s.lc ≠ .opened then .next (s.respond .fault 0#32 0#32)
    else if !srcp || !dstp then .next (s.respond .fault 0#32 0#32)
    else body s)

end Sys2Proof.Machine
end

