-- ==== Sys2Proof/Machine/PackBits.lean ====
section
/-! DEFINITION. The meanings of the three PackBits tokens on the transient registers of a PackBits SUBMIT
(41_line_decompressor.md R121 to R123, 10_state.md R33), how a token-by-token run of such a SUBMIT begins and ends, and
the spec's own unbounded decoding PB(s) (R120), with which the statements compare the token machine. -/

namespace Sys2Proof.Machine

/-- The shared part of the tokens: `f` acts on the transient registers; without a PackBits SUBMIT there is no token
(R21, R33), and on overlapping or short windows it is refused like the SUBMIT (R64, R65). -/
def onRun (f : PbRun → PbRun) (s : State) : Result :=
  match s.run with
  | some u => s.onWindows true true u.srcLen u.dstCap (.next (s.setRun (f u)))
  | none => .refused .tokenOutsidePackBits

/-- PB.NOP (R123). -/
def execPbNop (s : State) : Result := onRun (fun u => u.nop) s

/-- PB.LIT (R121). -/
def execPbLit (count : BitVec 7) (s : State) : Result := onRun (fun u => u.lit s.src count) s

/-- PB.REP (R122). -/
def execPbRep (low : BitVec 7) (s : State) : Result := onRun (fun u => u.rep s.src low) s

/-- A PackBits SUBMIT that has passed its checks stands before its first token. -/
def State.beginPackBits (s : State) (tag : PlaneTag) (len cap : Word) : State :=
  s.setRun (PbRun.start tag len cap (s.sampleCap cap))

/-- A PackBits SUBMIT whose tokens are exhausted delivers its samples and answers; its registers lose their values
(R33). On overlapping or short windows it is refused as it would have been at its start (R64, R65). -/
def finishPackBits (u : PbRun) (s : State) : Result :=
  s.onWindows true true u.srcLen u.dstCap (deliver u.out u.tag u.dstCap s.endRun)

/-- `PB(s)` of R120 as the spec writes it, for a stream of at most `fuel` tokens. -/
def packBitsLoop (fuel : Nat) (s : List Byte) : List Byte :=
  match fuel, s with
  | 0, _ => []
  | _ + 1, [] => []
  | f + 1, c :: rest =>
    if c.toNat ≤ 0x7F then rest.take (c.toNat + 1) ++ packBitsLoop f (rest.drop (c.toNat + 1))
    else if c.toNat = 0x80 then packBitsLoop f rest
    else
      match rest with
      | [] => []
      | b :: more => List.replicate (257 - c.toNat) b ++ packBitsLoop f more

/-- `PB(s)` (R120): every token takes at least one byte. -/
def packBits (s : List Byte) : List Byte := packBitsLoop s.length s

end Sys2Proof.Machine
end

