-- ==== Sys2Proof/Machine/Session.lean ====
section
/-! DEFINITION. The meanings of OPEN, CLOSE and ILLEGAL (44_session_control.md R172 to R174, R180; 60_exceptions.md R200). -/

namespace Sys2Proof.Machine

/-- OPEN (R172): INVALID_CONFIG for n = 0, ALLOCATION_FAILURE for an RGB session whose planes do not fit, both with the
session cleared (R174); else a session replaces whatever was there, with zeroed planes in RGB (R173). -/
def execOpen (mode : ModeField) (n : BitVec 16) (align : Bool) (s : State) : Result :=
  match geometry mode n align with
  | none => .next (s.clearSession.respond .invalidConfig 0#32 0#32)
  | some g =>
    match g.emode with
    | .rgb24 =>
      if s.cfg.planeDepth < n.toNat then .next (s.clearSession.respond .allocationFailure 0#32 0#32)
      else .next ((s.install g n align (some Planes.zeroed)).respond .ok g.bpl g.maxbuf)
    | .mono1 => .next ((s.install g n align none).respond .ok g.bpl g.maxbuf)
    | .gray8 => .next ((s.install g n align none).respond .ok g.bpl g.maxbuf)

/-- CLOSE (R180): always OK, in every state (R181, R160). -/
def execClose (s : State) : Result := .next (s.clearSession.respond .ok 0#32 0#32)

/-- ILLEGAL (R200): answered ILLEGAL_COMMAND, no other effect, whatever the header. -/
def execIllegal (s : State) : Result := .next (s.respond .illegalCommand 0#32 0#32)

end Sys2Proof.Machine
end

