-- ==== Sys2Proof/Machine/Submit.lean ====
section
/-! DEFINITION. The meanings of the four SUBMIT forms (41_line_decompressor.md R116, R118, R119, R128). -/

namespace Sys2Proof.Machine

/-- SUBMIT.RAW (R118). -/
def execSubmitRaw (tag : PlaneTag) (srcp dstp : Bool) (len cap : Word) (s : State) : Result :=
  submit srcp dstp len cap (fun t => deliver (rawSamples t.src len (t.sampleCap cap)) tag cap t) s

/-- SUBMIT.FILL (R116): its effect ignores L and reads no source byte. That the host provided its L source bytes all the
same (R65, R214) is noted where the request is taken up, in `State.short`, and tested with the other duties. -/
def execSubmitFill (tag : PlaneTag) (srcp dstp : Bool) (cap : Word) (s : State) : Result :=
  submit srcp dstp 0#32 cap (fun t => deliverFill tag cap t) s

/-- SUBMIT.PACKBITS (R119): the token machine runs over the source window, and what it produces is delivered. -/
def execSubmitPackBits (tag : PlaneTag) (srcp dstp : Bool) (len cap : Word) (s : State) : Result :=
  submit srcp dstp len cap (fun t => deliver (packBitsSamples t.src len (t.sampleCap cap)) tag cap t) s

/-- SUBMIT.UNKNOWN (R128): exactly the semantics of RawCopy; the code itself has no effect. -/
def execSubmitUnknown (tag : PlaneTag) (srcp dstp : Bool) (len cap : Word) (s : State) : Result :=
  submit srcp dstp len cap (fun t => deliver (rawSamples t.src len (t.sampleCap cap)) tag cap t) s

end Sys2Proof.Machine
end

