-- ==== Sys2Proof/Machine/Dispatch.lean ====
section
/-! DEFINITION. One arm per instruction. -/

namespace Sys2Proof.Machine

def exec (i : Instr) (s : State) : Host.Outcome State Fault Refusal :=
  match i with
  | .openSession mode n align => Sys2Proof.Machine.execOpen mode n align s
  | .submitRaw tag srcp dstp len cap => Sys2Proof.Machine.execSubmitRaw tag srcp dstp len cap s
  | .submitFill tag srcp dstp _ cap => Sys2Proof.Machine.execSubmitFill tag srcp dstp cap s
  | .submitPackBits tag srcp dstp len cap => Sys2Proof.Machine.execSubmitPackBits tag srcp dstp len cap s
  | .submitUnknown _ tag srcp dstp len cap => Sys2Proof.Machine.execSubmitUnknown tag srcp dstp len cap s
  | .close => Sys2Proof.Machine.execClose s
  | .illegal _ => Sys2Proof.Machine.execIllegal s
  | .pbNop => Sys2Proof.Machine.execPbNop s
  | .pbLit count => Sys2Proof.Machine.execPbLit count s
  | .pbRep low => Sys2Proof.Machine.execPbRep low s

end Sys2Proof.Machine
end

