-- ==== Sys2Proof/Machine/Fetch.lean ====
section
/-! DEFINITION. What `step` reads before it runs an instruction, and what `withFetchWord` sets up (log 8). -/

namespace Sys2Proof.Machine

/-- The control byte that a PackBits SUBMIT in progress runs next. -/
def State.nextToken (s : State) (u : PbRun) : Encoding := .control (u.fetch s.src)

/-- The words of a request. -/
def Request.encoding (r : Request) : Encoding := .request r.words

/-- The request of a table row, its windows apart: those of a SUBMIT are the current ones at L and C bytes (R65), those
of any other request the current ones. -/
def State.tableRequest (s : State) (w : Nat) : Request :=
  match tableWords w with
  | [header, len, cap] =>
    { words := [header, len, cap], src := s.src.resize len.toNat, dst := s.dst.resize cap.toNat, overlap := false }
  | words => { words := words, src := s.src, dst := s.dst, overlap := false }

/-- The request of a table row is the next thing the host does, and no PackBits SUBMIT is in progress. -/
def State.withRequestWord (s : State) (w : Nat) : State :=
  { s.endRun with inbox := .request (s.tableRequest w) :: s.inbox }

/-- A session in which a PackBits SUBMIT can be in progress: the open one, or where none is open a Gray session of
128 pixels, as OPEN leaves it (R172). -/
def State.sessionForToken (s : State) : State :=
  match s.lc, geometry .gray8 128#16 false with
  | .opened, _ => s
  | .unopened, some g => s.install g 128#16 false none
  | .closed, some g => s.install g 128#16 false none
  | .unopened, none => s
  | .closed, none => s

/-- The longest token: one control byte and 128 literal bytes (R84). -/
def longestToken : Word := 129#32

/-- The control byte `w` is the next token of a PackBits SUBMIT in progress, with bytes of zeros after it: an untagged
record of 129 bytes into a destination of 128, the windows apart. -/
def State.withTokenByte (s : State) (w : Nat) : State :=
  ({ s.sessionForToken with
    src := { size := 129, bytes := Memory.write [] 0 (BitVec.ofNat 8 w) }
    dst := s.dst.resize 128
    overlap := false
    short := false }).beginPackBits .untagged longestToken 128#32

end Sys2Proof.Machine
end

