-- ==== Sys2Proof/Machine/Step.lean ====
section
/-! DEFINITION. One step of the machine (44_session_control.md R170; 70_reset_and_hazards.md R230, R231): the host's next
event is performed as a whole (00_scope.md R13). A state in which a PackBits SUBMIT stands between two of its tokens runs
one token, or ends the SUBMIT (10_state.md R33); no step from a state between operations leads to such a state (log 2). -/

namespace Sys2Proof.Machine

/-- One step. With an empty inbox the block waits (R231; DESIGN CHOICE, log 12). -/
def step (s : State) : Host.Outcome State Fault Refusal :=
  match s.run with
  | some u =>
    if u.exhausted then finishPackBits u s
    else
      match decode (s.nextToken u) with
      | .ok i => exec i s
      | .error e => .refused (.malformedRequest e)
  | none =>
    match s.inbox with
    | [] => .next s
    | .request r :: rest =>
      match decode r.encoding with
      | .ok i => exec i (s.load r i rest)
      | .error e => .refused (.malformedRequest e)
    | .reset :: rest => .next ({ s with inbox := rest }).hardReset
    | .resetDuring r :: rest =>
      match decode r.encoding with
      | .ok i => (s.load r i rest).abandon i
      | .error e => .refused (.malformedRequest e)

/-- The state in which the very next step runs the instruction of an opcode-table row of `nbits` bits with the bits
`w` (log 8). -/
def State.withFetchWord (s : State) (nbits w : Nat) : State :=
  if nbits ≤ 8 then s.withTokenByte w else s.withRequestWord w

end Sys2Proof.Machine
end

