-- ==== Sys2Proof/Safety.lean ====
section
/-! DEFINITION. What the claims call a good state and a safe step: the invariants that hold between operations
(10_state.md R34) with the canonical form of every memory, and the host's duties (60_exceptions.md R214). -/

namespace Sys2Proof.Machine

/-- The memories that a host event brings are in canonical form. -/
def HostEvent.wf (e : HostEvent) : Prop :=
  match e with
  | .request r => r.src.wf ∧ r.dst.wf
  | .reset => True
  | .resetDuring r => r.src.wf ∧ r.dst.wf

/-- One allocated plane: canonical, and only bytes with index below N are ever listed (R30). -/
def Planes.ok (ps : Planes) (n : BitVec 16) : Prop :=
  ∀ p, (ps.get p).wf ∧ ∀ c ∈ ps.get p, c.1 < n.toNat

/-- The invariant of the machine. -/
structure State.Inv (s : State) : Prop where
  /-- PLANE_DEPTH >= 1 (R9). -/
  depth_pos : 1 ≤ s.cfg.planeDepth
  /-- R34 (b): without an open session every element is 0 and no plane is allocated. -/
  closed_is_cleared : s.lc ≠ .opened →
    s.mode = .mono1 ∧ s.n = 0#16 ∧ s.align = false ∧ s.bpl = 0#32 ∧ s.maxbuf = 0#32 ∧
      s.rf = false ∧ s.gf = false ∧ s.planes = none
  /-- R34 (c), the pixel count. -/
  open_has_pixels : s.lc = .opened → 1 ≤ s.n.toNat
  /-- R34 (c), the layout: BPL is what R102 and R103 give for MODE, N and ALIGN. -/
  open_has_bpl : s.lc = .opened → s.bpl.toNat = alignBytes s.align (baseBytes s.mode s.n.toNat)
  /-- R34 (c), the batch buffer. -/
  open_has_maxbuf : s.lc = .opened → s.maxbuf.toNat = 16 * s.bpl.toNat
  /-- R34 (d): a session that is not RGB has no row begun and no plane allocated. -/
  not_rgb : s.lc = .opened → s.mode ≠ .rgb24 → s.rf = false ∧ s.gf = false ∧ s.planes = none
  /-- R34 (e): an RGB session fits PLANE_DEPTH and has its planes. -/
  rgb : s.lc = .opened → s.mode = .rgb24 → s.n.toNat ≤ s.cfg.planeDepth ∧ s.planes.isSome
  /-- Planes hold bytes 0 .. N-1 only (R30). -/
  planes_ok : ∀ ps, s.planes = some ps → ps.ok s.n
  /-- A PackBits SUBMIT in progress is in an open session, has the capacity that R111 gives it, and has produced no
  more samples than that (R124); its windows are apart (R64) and exactly L and C bytes long (R65), for the host provided that many. -/
  run_ok : ∀ u, s.run = some u →
    s.lc = .opened ∧ u.cap = s.sampleCap u.dstCap ∧ u.outCnt ≤ u.cap ∧
      s.overlap = false ∧ s.short = false ∧ s.src.size = u.srcLen.toNat ∧ s.dst.size = u.dstCap.toNat
  /-- The windows are canonical: no byte is listed past their sizes. -/
  src_wf : s.src.wf
  dst_wf : s.dst.wf
  /-- So are the windows that the host will bring. -/
  inbox_wf : ∀ e ∈ s.inbox, e.wf

/-- The host keeps its duties in a request (R214): it has the words R70 gives it; of a SUBMIT's windows those that are not
marked absent do not overlap (R246) and hold at least L readable and C writable bytes (R65). -/
def Request.dutiful (r : Request) : Prop :=
  ∃ i, decode r.encoding = .ok i ∧ ∀ o, submitOperands i = some o →
    (o.srcp = true → o.dstp = true → r.overlap = false) ∧
    (o.srcp = true → o.len.toNat ≤ r.src.size) ∧ (o.dstp = true → o.cap.toNat ≤ r.dst.size)

/-- The host keeps its duties in the event `e`. -/
def HostEvent.dutiful (e : HostEvent) : Prop :=
  match e with
  | .request r => r.dutiful
  | .reset => True
  | .resetDuring r => r.dutiful

/-- The host keeps its duties in everything it does next. -/
def State.dutiful (s : State) : Prop := ∀ e ∈ s.inbox, e.dutiful

/-- A step that answers neither a fault nor a refusal. -/
def Safe (s : State) : Prop := ∃ t, step s = .next t

end Sys2Proof.Machine
end

