-- ==== Sys2Proof/WellFormed.lean ====
section
/-! DEFINITION. Which terms of `Instr` stand for an encoding of 30_encoding.md: the checks that the field widths of the
syntax do not already make. -/

namespace Sys2Proof

/-- COMP of SUBMIT.UNKNOWN is none of the three known codes (R76); the header of ILLEGAL is an illegal one (R81);
the control byte of PB.REP is not 0x80, which is PB.NOP (R84). Every other operand is free. -/
def Instr.wellFormed (i : Instr) : Bool :=
  match i with
  | .openSession _ _ _ => true
  | .submitRaw _ _ _ _ _ => true
  | .submitFill _ _ _ _ _ => true
  | .submitPackBits _ _ _ _ _ => true
  | .submitUnknown comp _ _ _ _ _ => comp ≠ 0x00#8 && comp ≠ 0x01#8 && comp ≠ 0x02#8
  | .close => true
  | .illegal header => !legalHeader header
  | .pbNop => true
  | .pbLit _ => true
  | .pbRep low => low ≠ 0#7

/-- The instruction is one of the host's requests, not a PackBits token (R3). -/
def Instr.isRequest (i : Instr) : Bool :=
  match i with
  | .openSession _ _ _ => true
  | .submitRaw _ _ _ _ _ => true
  | .submitFill _ _ _ _ _ => true
  | .submitPackBits _ _ _ _ _ => true
  | .submitUnknown _ _ _ _ _ _ => true
  | .close => true
  | .illegal _ => true
  | .pbNop => false
  | .pbLit _ => false
  | .pbRep _ => false

end Sys2Proof
end

