-- ==== Sys2Proof/Certificates/Slice0/Obligations.lean ====
section
/-! DEFINITION. The statements about the machine, from the numbered rules of spec/. The helpers under
`Sys2Proof.Claims` say in the spec's own terms what a record decodes to and what a line written is, without the
machine's sinks, token loop or quantizer. -/

namespace Sys2Proof.Claims

open Sys2Proof.Machine

/-- A SUBMIT of any of the four forms, with these operands. -/
def IsSubmit (i : Instr) (tag : PlaneTag) (srcp dstp : Bool) (len cap : Word) : Prop :=
  i = .submitRaw tag srcp dstp len cap ∨ i = .submitFill tag srcp dstp len cap ∨
    i = .submitPackBits tag srcp dstp len cap ∨ ∃ comp, i = .submitUnknown comp tag srcp dstp len cap

/-- A SUBMIT of one of the three forms that read input (R110). -/
def IsDecoding (i : Instr) (tag : PlaneTag) (srcp dstp : Bool) (len cap : Word) : Prop :=
  i = .submitRaw tag srcp dstp len cap ∨ i = .submitPackBits tag srcp dstp len cap ∨
    ∃ comp, i = .submitUnknown comp tag srcp dstp len cap

/-- What a record gives a span of K samples: `take(K, s)` for RawCopy (R118) and Unknown (R128), `take(K, PB(s))` for
PackBits (R119, R120), `rep(K, 0xFF)` for WhiteFill (R114); s is the record's L source bytes (R110). -/
def samplesOf (i : Instr) (src : Window) (k : Nat) : List Byte :=
  match i with
  | .submitRaw _ _ _ len _ => (src.readBytes 0 len.toNat).take k
  | .submitFill _ _ _ _ _ => List.replicate k 0xFF#8
  | .submitPackBits _ _ _ len _ => (packBits (src.readBytes 0 len.toNat)).take k
  | .submitUnknown _ _ _ _ len _ => (src.readBytes 0 len.toNat).take k
  | .openSession _ _ _ => []
  | .close => []
  | .illegal _ => []
  | .pbNop => []
  | .pbLit _ => []
  | .pbRep _ => []

/-- The STATUS values of R82's table, as the whole response word 0. -/
def statusWord (st : Status) : Word :=
  match st with
  | .ok => 0x00000000#32
  | .emitted => 0x00000001#32
  | .buffered => 0x00000002#32
  | .fault => 0x00000003#32
  | .invalidConfig => 0x00000004#32
  | .allocationFailure => 0x00000005#32
  | .illegalCommand => 0x00000006#32

/-- An answer. -/
def answer (status : Status) (w1 w2 : Word) : Option Response := some { status := status, word1 := w1, word2 := w2 }

/-- From s to t exactly this happened: `bytes` were written from destination offset 0 on, every other destination byte
kept its value, the answer is EMITTED with their number, and nothing else changed. -/
def LineWritten (s t : State) (bytes : List Byte) : Prop :=
  (∀ a, t.dst.read a = (bytes[a]?).getD (s.dst.read a)) ∧
  t.response = answer .emitted (BitVec.ofNat 32 bytes.length) 0#32 ∧
  { t with dst := s.dst, response := s.response } = s

/-- `bytes` is the packed line of `seq`: ceil(M/8) bytes, and bit (i mod 8) of byte floor(i/8), counted from the most
significant, is 1 exactly when sample i exists and is at least 128 (R141, R143, R144). -/
def PacksTo (seq bytes : List Byte) : Prop :=
  bytes.length = (seq.length + 7) / 8 ∧
  ∀ j b, j < bytes.length → b < 8 →
    (((bytes[j]?).getD 0#8).getMsbD b = true ↔ ∃ x, seq[8 * j + b]? = some x ∧ 128 ≤ x.toNat)

/-- Plane p after a record of these samples: they stand from index 0 on, its other bytes and the other two planes keep
their values (R115). -/
def PlaneTakes (ps ps' : Planes) (p : Plane) (seq : List Byte) : Prop :=
  (∀ a, (ps'.get p).read a = (seq[a]?).getD ((ps.get p).read a)) ∧ ∀ q, q ≠ p → ps'.get q = ps.get q

/-- `ClearSession()` as R171 lists it, with an answer. -/
def cleared (s : State) (status : Status) : State :=
  { s with
    planes := none, mode := .mono1, n := 0#16, align := false, bpl := 0#32, maxbuf := 0#32, rf := false, gf := false
    lc := .closed, response := answer status 0#32 0#32 }

/-- Bytes per line as R102 and R103 give them, for the requested mode (an unrecognized one counts as Monochrome, R101). -/
def lineBytes (mode : ModeField) (n : Nat) (align : Bool) : Nat :=
  let base := match mode with
    | .mono1 => (n + 7) / 8
    | .gray8 => n
    | .rgb24 => 3 * n
    | .unrecognized => (n + 7) / 8
  if align then 4 * ((base + 3) / 4) else base

/-- The mode that OPEN stores (R101). -/
def storedMode (mode : ModeField) : ColorMode :=
  match mode with
  | .mono1 => .mono1
  | .gray8 => .gray8
  | .rgb24 => .rgb24
  | .unrecognized => .mono1

/-- The header is illegal as R81 says: OP = 0b00, or a reserved bit of its format is 1. -/
def HeaderIllegal (h : Word) : Prop :=
  (h.getLsbD 0 = false ∧ h.getLsbD 1 = false) ∨
  (h.getLsbD 0 = true ∧ h.getLsbD 1 = false ∧ ∃ k, 5 ≤ k ∧ k ≤ 15 ∧ h.getLsbD k = true) ∨
  (h.getLsbD 0 = false ∧ h.getLsbD 1 = true ∧
    ∃ k, ((6 ≤ k ∧ k ≤ 7) ∨ (16 ≤ k ∧ k ≤ 31)) ∧ h.getLsbD k = true) ∨
  (h.getLsbD 0 = true ∧ h.getLsbD 1 = true ∧ ∃ k, 2 ≤ k ∧ k ≤ 31 ∧ h.getLsbD k = true)

/-- Every element of R22 at its reset value (R35). -/
def AtReset (s : State) : Prop :=
  s.lc = .unopened ∧ s.mode = .mono1 ∧ s.n = 0#16 ∧ s.align = false ∧ s.bpl = 0#32 ∧ s.maxbuf = 0#32 ∧
    s.rf = false ∧ s.gf = false ∧ s.planes = none

/-- Two outcomes that differ at most in the source window, which the second has as `m`. -/
def SameButSrc (m : Window) (a b : Result) : Prop :=
  match a, b with
  | .next t, .next t' => t' = { t with src := m }
  | .fault r, .fault r' => r = r'
  | .refused r, .refused r' => r = r'
  | _, _ => False

/-- Two outcomes that differ at most in ALIGN, BPL and MAXBUF, which the second has as given. -/
def SameButLayout (align : Bool) (bpl maxbuf : Word) (a b : Result) : Prop :=
  match a, b with
  | .next t, .next t' => t' = { t with align := align, bpl := bpl, maxbuf := maxbuf }
  | .fault r, .fault r' => r = r'
  | .refused r, .refused r' => r = r'
  | _, _ => False

/-- Two outcomes that differ at most in LC. -/
def SameButLc (a b : Result) : Prop :=
  match a, b with
  | .next t, .next t' => { t with lc := t'.lc } = t'
  | .fault r, .fault r' => r = r'
  | .refused r, .refused r' => r = r'
  | _, _ => False

end Sys2Proof.Claims

open Sys2Proof Sys2Proof.Machine Sys2Proof.Claims

/-! ## Encoding -/

/-- R70 to R79, R81, R84: every well-formed instruction is decoded back from its encoding, with every operand. -/
def Obligations.DecodeEncodeRoundTrip : Prop :=
  ∀ i : Instr, i.wellFormed = true → decode (encode i) = .ok i

/-- R79, R85: whatever is decoded is well-formed and is encoded back to what it was read from; of an illegal request,
whose operand words mean nothing, the header. No header bit, operand word or control bit is dropped. -/
def Obligations.EncodeDecodeKeepsEveryBit : Prop :=
  ∀ e i, decode e = .ok i →
    i.wellFormed = true ∧
    (encode i = e ∨ ∃ h operands, e = .request (h :: operands) ∧ i = .illegal h)

/-- R81: an illegal header is answered ILLEGAL_COMMAND and changes no state and touches no window; no other header is
treated so, whatever its MODE and COMP. That it is so whatever words follow the header is the model's choice (log 7,
DEDUCED). -/
def Obligations.IllegalHeadersAreThoseOfR81 : Prop :=
  ∀ (s : State) (r : Request) (rest : List HostEvent) (h : Word) (operands : List Word),
    s.run = none → s.inbox = .request r :: rest → r.words = h :: operands →
    (HeaderIllegal h →
      step s = .next { s with
        src := r.src, dst := r.dst, overlap := r.overlap, short := false, inbox := rest
        response := answer .illegalCommand 0#32 0#32 }) ∧
    (¬ HeaderIllegal h → ∀ i, decode (.request r.words) = .ok i → ∀ h', i ≠ .illegal h')

/-- R84, the table of control bytes, with the byte read as a signed number: literals for 0 .. 127, c + 1 bytes; a
no-op for -128; a repeat for -127 .. -1, 1 - c = 257 - c (unsigned) copies. -/
def Obligations.PackBitsControlByteClasses : Prop :=
  ∀ c : Byte,
    (0 ≤ c.toInt → decode (.control c) = .ok (.pbLit (c.setWidth 7)) ∧
      (litLength (c.setWidth 7) : Int) = c.toInt + 1) ∧
    (c.toInt = -128 → decode (.control c) = .ok .pbNop) ∧
    (-127 ≤ c.toInt → c.toInt ≤ -1 → decode (.control c) = .ok (.pbRep (c.setWidth 7)) ∧
      (repLength (c.setWidth 7) : Int) = 1 - c.toInt ∧ repLength (c.setWidth 7) = 257 - c.toNat)

/-- R80: the table of example header words, each with operand words where it has any. -/
def Obligations.ExampleHeadersDecode : Prop :=
  decode (.request [0x00100001#32]) = .ok (.openSession .mono1 16#16 false) ∧
  decode (.request [0x00100011#32]) = .ok (.openSession .mono1 16#16 true) ∧
  decode (.request [0x00040005#32]) = .ok (.openSession .gray8 4#16 false) ∧
  decode (.request [0x00020009#32]) = .ok (.openSession .rgb24 2#16 false) ∧
  decode (.request [0x0010000D#32]) = .ok (.openSession .unrecognized 16#16 false) ∧
  (∀ len cap, decode (.request [0x00000032#32, len, cap]) = .ok (.submitRaw .untagged true true len cap)) ∧
  (∀ len cap, decode (.request [0x00000132#32, len, cap]) = .ok (.submitFill .untagged true true len cap)) ∧
  (∀ len cap, decode (.request [0x00000232#32, len, cap]) = .ok (.submitPackBits .untagged true true len cap)) ∧
  (∀ len cap, decode (.request [0x00000732#32, len, cap]) = .ok (.submitUnknown 7#8 .untagged true true len cap)) ∧
  (∀ len cap, decode (.request [0x00000036#32, len, cap]) = .ok (.submitRaw .red true true len cap)) ∧
  (∀ len cap, decode (.request [0x0000003A#32, len, cap]) = .ok (.submitRaw .green true true len cap)) ∧
  (∀ len cap, decode (.request [0x0000003E#32, len, cap]) = .ok (.submitRaw .blue true true len cap)) ∧
  (∀ len cap, decode (.request [0x00000022#32, len, cap]) = .ok (.submitRaw .untagged false true len cap)) ∧
  decode (.request [0x00000003#32]) = .ok .close

/-! ## The step -/

/-- R13, R170: when the host's next event is a request whose words decode to i, one step is exec of i, on the state in
which the request is taken from the inbox and the windows stand as the host placed them. That the step of a SUBMIT runs on
the first L and C bytes of what the host provides, and notes in `short` where a present window has fewer, is the model's choice (log
13, DESIGN CHOICE); R65 says only that they are exactly that long. -/
def Obligations.StepRunsTheDecodedRequest : Prop :=
  ∀ (s : State) (r : Request) (rest : List HostEvent) (i : Instr),
    s.run = none → s.inbox = .request r :: rest → decode (.request r.words) = .ok i →
    ((∀ tag srcp dstp len cap, ¬ IsSubmit i tag srcp dstp len cap) →
      step s = exec i { s with
        src := r.src, dst := r.dst, overlap := r.overlap, short := false, inbox := rest }) ∧
    (∀ tag srcp dstp len cap, IsSubmit i tag srcp dstp len cap →
      step s = exec i { s with
        src := r.src.cut len.toNat, dst := r.dst.cut cap.toNat, overlap := r.overlap
        short := decide ((srcp = true ∧ r.src.size < len.toNat) ∨ (dstp = true ∧ r.dst.size < cap.toNat))
        inbox := rest })

/-- R65: the windows that the step of a SUBMIT runs on, and leaves, are exactly L and C bytes long, where the host provides
that many; their bytes are the host's, of the destination those that the SUBMIT does not write; and nothing is listed past
them. -/
def Obligations.SubmitWindowsAreExactlyLAndC : Prop :=
  ∀ (s t : State) (r : Request) (rest : List HostEvent) (i : Instr) (tag : PlaneTag) (srcp dstp : Bool) (len cap : Word),
    s.run = none → s.inbox = .request r :: rest → decode (.request r.words) = .ok i →
    IsSubmit i tag srcp dstp len cap → r.src.wf → r.dst.wf → len.toNat ≤ r.src.size → cap.toNat ≤ r.dst.size →
    step s = .next t →
    t.src.size = len.toNat ∧ t.dst.size = cap.toNat ∧ t.src.wf ∧ t.dst.wf ∧
    (∀ a, a < len.toNat → t.src.read a = r.src.read a) ∧
    (∀ res, t.response = some res → ∀ a, res.word1.toNat ≤ a → a < cap.toNat → t.dst.read a = r.dst.read a)

/-- R33, R120 (log 2, the model's choice of tokens as steps): while a PackBits SUBMIT stands before a token, one step is
exec of the token that the source byte at in_pos decodes to, and nothing around it. -/
def Obligations.StepRunsTheDecodedToken : Prop :=
  ∀ (s : State) (u : PbRun) (i : Instr),
    s.run = some u → u.inPos < u.srcLen.toNat → u.out.length < u.cap →
    decode (.control (s.src.read u.inPos)) = .ok i → step s = exec i s

/-- R230, R231: with nothing to do the block waits; a reset between operations puts every element to its reset value
and answers nothing. What is not the block's stays (log 4: windows; log 1: PLANE_DEPTH). -/
def Obligations.IdleAndResetSteps : Prop :=
  ∀ (s : State), s.run = none →
    (s.inbox = [] → step s = .next s) ∧
    (∀ rest, s.inbox = .reset :: rest → ∃ t, step s = .next t ∧
      AtReset t ∧ t.run = none ∧ t.response = none ∧ t.cfg = s.cfg ∧ t.inbox = rest ∧ t.src = s.src ∧ t.dst = s.dst)

/-- R230: a reset during an operation abandons it: every element is at its reset value and there is no response. The bytes
0 .. C-1 of the destination window of a SUBMIT that might write it may hold anything, so nothing is said of them; nothing
outside them is written: not the source window (R51), no destination offset at C or past it. Of an
operation that would write no destination byte (no SUBMIT, one that a structural check faults, a Red, Green or untagged
record of an RGB session; log 6, DEDUCED) the destination keeps them. Only a SUBMIT with
overlapping windows (R64, log 5), or of whose present windows one has fewer than L or C bytes (R65, log 13), is refused. -/
def Obligations.ResetAbandonsTheOperation : Prop :=
  ∀ (s : State) (r : Request) (rest : List HostEvent) (i : Instr),
    s.run = none → s.inbox = .resetDuring r :: rest → decode (.request r.words) = .ok i →
    ((∀ tag srcp dstp len cap, IsSubmit i tag srcp dstp len cap →
        (srcp = true → dstp = true → r.overlap = false) ∧
        (srcp = true → len.toNat ≤ r.src.size) ∧ (dstp = true → cap.toNat ≤ r.dst.size)) →
      ∃ t, step s = .next t ∧ AtReset t ∧ t.run = none ∧ t.response = none ∧ t.cfg = s.cfg ∧ t.inbox = rest ∧
        (∀ tag srcp dstp len cap, IsSubmit i tag srcp dstp len cap →
          t.src = r.src.cut len.toNat ∧ t.dst.size = min r.dst.size cap.toNat ∧ (r.dst.wf → t.dst.wf) ∧
          (∀ a, cap.toNat ≤ a → t.dst.read a = (r.dst.cut cap.toNat).read a) ∧
          (s.lc ≠ .opened ∨ srcp = false ∨ dstp = false ∨ (s.mode = .rgb24 ∧ tag ≠ .blue) →
            t.dst = r.dst.cut cap.toNat)) ∧
        ((∀ tag srcp dstp len cap, ¬ IsSubmit i tag srcp dstp len cap) → t.src = r.src ∧ t.dst = r.dst)) ∧
    (∀ tag srcp dstp len cap, IsSubmit i tag srcp dstp len cap →
      (srcp = true → dstp = true → r.overlap = true → step s = .refused .overlappingWindows) ∧
      ((srcp = true → dstp = true → r.overlap = false) →
        (srcp = true ∧ r.src.size < len.toNat) ∨ (dstp = true ∧ r.dst.size < cap.toNat) →
        step s = .refused .shortWindow))

/-! ## Reset and invariants -/

/-- R35 (the spec's decision D28): the state after power-on has every element of R22 at its reset value, the reset input
gives every element that value again, and CLOSE, from every state, leaves LC = 2 and every other element at that value. -/
def Obligations.ResetStateHasTheResetValues : Prop :=
  (AtReset State.reset ∧ State.reset.run = none ∧ State.reset.lc.code = 0#2 ∧ State.reset.mode.code = 0#2) ∧
  (∀ (s t : State) (rest : List HostEvent), s.run = none → s.inbox = .reset :: rest → step s = .next t →
    AtReset t ∧ t.run = none) ∧
  (∀ s : State, ∃ t, exec .close s = .next t ∧ t.lc.code = 2#2 ∧ AtReset { t with lc := .unopened })

/-- R34: the invariants hold after reset. -/
def Obligations.ResetMeetsTheInvariant : Prop := State.reset.Inv

/-- R34, with the canonical form of every memory: every step keeps the invariants, from every state that meets them. -/
def Obligations.StepKeepsTheInvariant : Prop :=
  ∀ s t : State, s.Inv → step s = .next t → t.Inv

/-- R30, R203, R204: from a state that meets the invariants, and with a host that keeps its duties (R214), every step
answers a next state: no anomaly of the data stops the machine, and no plane is touched that is not allocated. -/
def Obligations.DutifulHostNeverStopsTheBlock : Prop :=
  ∀ s : State, s.Inv → s.dutiful → Safe s

/-- R33, R13: the transient registers have no value between operations: no step from a state without them gives them
one, so every request is one indivisible step. -/
def Obligations.TransientRegistersEndWithTheOperation : Prop :=
  ∀ s t : State, s.run = none → step s = .next t → t.run = none

/-- R234: no step changes PLANE_DEPTH. -/
def Obligations.PlaneDepthNeverChanges : Prop :=
  ∀ s t : State, step s = .next t → t.cfg = s.cfg

/-! ## OPEN, CLOSE, ILLEGAL -/

/-- R172: OPEN from any state. N = 0 gives INVALID_CONFIG, an RGB session that does not fit gives ALLOCATION_FAILURE,
both with the session cleared; anything else opens the session with its layout, all flags clear, zeroed planes in RGB
and no planes otherwise, and touches nothing else. -/
def Obligations.OpenOutcomes : Prop :=
  ∀ (mode : ModeField) (n : BitVec 16) (align : Bool) (s : State),
    (n = 0#16 → exec (.openSession mode n align) s = .next (cleared s .invalidConfig)) ∧
    (n ≠ 0#16 → mode = .rgb24 → s.cfg.planeDepth < n.toNat →
      exec (.openSession mode n align) s = .next (cleared s .allocationFailure)) ∧
    (n ≠ 0#16 → ¬ (mode = .rgb24 ∧ s.cfg.planeDepth < n.toNat) →
      ∃ t, exec (.openSession mode n align) s = .next t ∧
        t.lc = .opened ∧ t.mode = storedMode mode ∧ t.n = n ∧ t.align = align ∧
        t.bpl.toNat = lineBytes mode n.toNat align ∧ t.maxbuf.toNat = 16 * lineBytes mode n.toNat align ∧
        t.rf = false ∧ t.gf = false ∧
        t.planes = (if mode = .rgb24 then some { red := [], green := [], blue := [] } else none) ∧
        t.response = answer .ok t.bpl t.maxbuf ∧
        t.cfg = s.cfg ∧ t.run = s.run ∧ t.src = s.src ∧ t.dst = s.dst ∧ t.overlap = s.overlap ∧ t.short = s.short ∧
        t.inbox = s.inbox ∧ t.draws = s.draws)

/-- R173: after a successful RGB OPEN every byte of every plane reads 0x00; any other OPEN leaves no plane. -/
def Obligations.FreshPlanesReadZero : Prop :=
  ∀ (mode : ModeField) (n : BitVec 16) (align : Bool) (s t : State),
    exec (.openSession mode n align) s = .next t → t.lc = .opened →
    (mode = .rgb24 → ∃ ps, t.planes = some ps ∧ ∀ p a, (ps.get p).read a = 0x00#8) ∧
    (mode ≠ .rgb24 → t.planes = none)

/-- R108: what the reported layout satisfies, with the unaligned line of the same OPEN without the flag. -/
def Obligations.AlignedLineProperties : Prop :=
  ∀ (mode : ModeField) (n : BitVec 16) (g u : Layout),
    geometry mode n false = some u → geometry mode n true = some g →
    g.bpl.toNat % 4 = 0 ∧ u.bpl.toNat ≤ g.bpl.toNat ∧ g.bpl.toNat - u.bpl.toNat ≤ 3 ∧
      u.bpl.toNat = lineBytes mode n.toNat false

/-- R180, R171: CLOSE in any state, mid-row included (R160), clears everything and answers OK. -/
def Obligations.CloseClearsTheSession : Prop :=
  ∀ s : State, exec .close s = .next (cleared s .ok)

/-- R181: CLOSE of an unopened or already closed session succeeds, and a second CLOSE leaves the state as the first
left it. -/
def Obligations.CloseIsIdempotent : Prop :=
  ∀ s t : State, exec .close s = .next t → exec .close t = .next t ∧ t.response = answer .ok 0#32 0#32

/-- R200: an illegal request has no effect but its answer. -/
def Obligations.IllegalRequestHasNoEffect : Prop :=
  ∀ (h : Word) (s : State), exec (.illegal h) s = .next { s with response := answer .illegalCommand 0#32 0#32 }

/-! ## SUBMIT -/

/-- R201: a SUBMIT of any form, code and tag without an open session, or with a window absent, is answered FAULT with
bytesEmitted 0 and has no effect. The host keeps its duties about the windows that are present (R214); where it does not there
is no run (OverlappingWindowsAreRefused, ShortWindowsAreRefused). -/
def Obligations.SubmitStructuralFault : Prop :=
  ∀ (i : Instr) (tag : PlaneTag) (srcp dstp : Bool) (len cap : Word) (s : State),
    IsSubmit i tag srcp dstp len cap → (s.lc ≠ .opened ∨ srcp = false ∨ dstp = false) →
    s.dutiesKept srcp dstp len cap →
    exec i s = .next { s with response := answer .fault 0#32 0#32 }

/-- R64, R214, R246: a SUBMIT whose windows are both present and overlap is refused, as the spec asks of a model, in every
state, also without an open session; so is every step of a PackBits SUBMIT in progress, its tokens and its end. That the
refusal goes before the FAULT of R201 is the model's reading of R214 (log 5, DEDUCED). -/
def Obligations.OverlappingWindowsAreRefused : Prop :=
  (∀ (i : Instr) (tag : PlaneTag) (len cap : Word) (s : State),
    IsSubmit i tag true true len cap → s.overlap = true → exec i s = .refused .overlappingWindows) ∧
  (∀ (s : State) (u : PbRun) (count low : BitVec 7), s.run = some u → s.overlap = true →
    exec .pbNop s = .refused .overlappingWindows ∧ exec (.pbLit count) s = .refused .overlappingWindows ∧
      exec (.pbRep low) s = .refused .overlappingWindows ∧ step s = .refused .overlappingWindows)

/-- R65, R214 (log 13, the model's choice of a refusal where a broken duty has no defined run): the step of a SUBMIT of any
form, WhiteFill included, in every state, also without an open session or with the other window absent, is refused where
the host provides fewer than L bytes of a present source or C of a present destination; so is exec where that is noted in
the state, or where bytes that the form reaches are not there; and so is every step of a PackBits SUBMIT in progress. -/
def Obligations.ShortWindowsAreRefused : Prop :=
  (∀ (s : State) (r : Request) (rest : List HostEvent) (i : Instr) (tag : PlaneTag) (srcp dstp : Bool) (len cap : Word),
    s.run = none → s.inbox = .request r :: rest → decode (.request r.words) = .ok i →
    IsSubmit i tag srcp dstp len cap → (srcp = true → dstp = true → r.overlap = false) →
    (srcp = true ∧ r.src.size < len.toNat) ∨ (dstp = true ∧ r.dst.size < cap.toNat) → step s = .refused .shortWindow) ∧
  (∀ (i : Instr) (tag : PlaneTag) (srcp dstp : Bool) (len cap : Word) (s : State),
    (srcp = true → dstp = true → s.overlap = false) →
    (IsSubmit i tag srcp dstp len cap → s.short = true ∨ (dstp = true ∧ s.dst.size < cap.toNat) →
      exec i s = .refused .shortWindow) ∧
    (IsDecoding i tag srcp dstp len cap → srcp = true → s.src.size < len.toNat → exec i s = .refused .shortWindow)) ∧
  (∀ (s : State) (u : PbRun) (count low : BitVec 7), s.run = some u → s.overlap = false →
    s.short = true ∨ s.src.size < u.srcLen.toNat ∨ s.dst.size < u.dstCap.toNat →
    exec .pbNop s = .refused .shortWindow ∧ exec (.pbLit count) s = .refused .shortWindow ∧
      exec (.pbRep low) s = .refused .shortWindow ∧ step s = .refused .shortWindow)

/-- R112: in a Gray session RawCopy, PackBits and Unknown write their decoded samples, at most C of them, from offset 0
and return their number; destination bytes past them are not written, and nothing else changes. -/
def Obligations.GrayLineIsTheDecodedSamples : Prop :=
  ∀ (i : Instr) (tag : PlaneTag) (len cap : Word) (s : State),
    IsDecoding i tag true true len cap → s.lc = .opened → s.windowsOk len cap → s.mode = .gray8 →
    ∃ t, exec i s = .next t ∧ LineWritten s t (samplesOf i s.src cap.toNat)

/-- R113: in a Monochrome session the decoded samples, at most min(N, 8C) of them, are packed by threshold 128, most
significant bit first, into ceil(M/8) <= C bytes from offset 0; bytes past them are not written, and nothing else
changes. -/
def Obligations.MonoLineIsThePackedSamples : Prop :=
  ∀ (i : Instr) (tag : PlaneTag) (len cap : Word) (s : State),
    IsDecoding i tag true true len cap → s.lc = .opened → s.windowsOk len cap → s.mode = .mono1 →
    ∃ t bytes, exec i s = .next t ∧
      PacksTo (samplesOf i s.src (min s.n.toNat (8 * cap.toNat))) bytes ∧ bytes.length ≤ cap.toNat ∧
      LineWritten s t bytes

/-- R114: WhiteFill sets all C bytes of the destination to 0xFF in a Gray or Monochrome session, padding bits and bytes
past the line included, and all N bytes of the tag's plane in an RGB session; L does not matter, so long as the host has
provided its L source bytes (R65; `short`). -/
def Obligations.WhiteFillFillsTheWholeSpan : Prop :=
  ∀ (tag : PlaneTag) (len cap : Word) (s : State), s.lc = .opened → s.windowsOk 0#32 cap →
    (s.mode ≠ .rgb24 →
      ∃ t, exec (.submitFill tag true true len cap) s = .next t ∧ LineWritten s t (List.replicate cap.toNat 0xFF#8)) ∧
    (∀ ps p, s.mode = .rgb24 → s.planes = some ps →
      (tag = .red ∧ p = .red) ∨ (tag = .green ∧ p = .green) ∨ (tag = .blue ∧ p = .blue) →
      ∃ t ps', exec (.submitFill tag true true len cap) s = .next t ∧ t.planes = some ps' ∧
        PlaneTakes ps ps' p (List.replicate s.n.toNat 0xFF#8))

/-- R128: SUBMIT.UNKNOWN does exactly what SUBMIT.RAW does, whatever its code. -/
def Obligations.UnknownCodeIsRawCopy : Prop :=
  ∀ (comp : Byte) (tag : PlaneTag) (srcp dstp : Bool) (len cap : Word) (s : State),
    exec (.submitUnknown comp tag srcp dstp len cap) s = exec (.submitRaw tag srcp dstp len cap) s

/-- R151: a Red or Green record of any form is decoded into its plane and marks it filled, BUFFERED with no byte
emitted; the other planes, the other flag, the destination and everything else keep their values. -/
def Obligations.RedOrGreenRecordIsBuffered : Prop :=
  ∀ (i : Instr) (tag : PlaneTag) (p : Plane) (len cap : Word) (s : State) (ps : Planes),
    IsSubmit i tag true true len cap → (tag = .red ∧ p = .red) ∨ (tag = .green ∧ p = .green) →
    s.lc = .opened → s.windowsOk len cap → s.mode = .rgb24 → s.planes = some ps →
    ∃ t ps', exec i s = .next t ∧ t.planes = some ps' ∧ PlaneTakes ps ps' p (samplesOf i s.src s.n.toNat) ∧
      t.rf = (s.rf || decide (p = .red)) ∧ t.gf = (s.gf || decide (p = .green)) ∧
      t.response = answer .buffered 0#32 0#32 ∧
      { t with planes := s.planes, rf := s.rf, gf := s.gf, response := s.response } = s

/-- R153, R156, R157: a Blue record of any form with both flags set is decoded into its plane; then P = min(N, floor(C/3))
pixels are written as R, G, B from the planes, no byte at 3P (<= C) or past it; the flags are cleared, EMITTED with
3P; everything else keeps its value. -/
def Obligations.BlueRecordEmitsACompleteRow : Prop :=
  ∀ (i : Instr) (len cap : Word) (s : State) (ps : Planes),
    IsSubmit i .blue true true len cap → s.lc = .opened → s.windowsOk len cap → s.mode = .rgb24 →
    s.planes = some ps → s.rf = true → s.gf = true →
    ∃ t ps' P, exec i s = .next t ∧ t.planes = some ps' ∧ PlaneTakes ps ps' .blue (samplesOf i s.src s.n.toNat) ∧
      P = min s.n.toNat (cap.toNat / 3) ∧ 3 * P ≤ cap.toNat ∧
      (∀ k, k < P → t.dst.read (3 * k) = ps'.red.read k ∧ t.dst.read (3 * k + 1) = ps'.green.read k ∧
        t.dst.read (3 * k + 2) = ps'.blue.read k) ∧
      (∀ a, 3 * P ≤ a → t.dst.read a = s.dst.read a) ∧
      t.rf = false ∧ t.gf = false ∧ t.response = answer .emitted (BitVec.ofNat 32 (3 * P)) 0#32 ∧
      { t with planes := s.planes, rf := s.rf, gf := s.gf, dst := s.dst, response := s.response } = s

/-- R154, R152: a Blue record of any form with Red or Green missing is decoded into its plane, clears both flags and
is answered BUFFERED; the destination and everything else keep their values. -/
def Obligations.BlueRecordDropsAPartialRow : Prop :=
  ∀ (i : Instr) (len cap : Word) (s : State) (ps : Planes),
    IsSubmit i .blue true true len cap → s.lc = .opened → s.windowsOk len cap → s.mode = .rgb24 →
    s.planes = some ps → s.rf = false ∨ s.gf = false →
    ∃ t ps', exec i s = .next t ∧ t.planes = some ps' ∧ PlaneTakes ps ps' .blue (samplesOf i s.src s.n.toNat) ∧
      t.rf = false ∧ t.gf = false ∧ t.response = answer .buffered 0#32 0#32 ∧
      { t with planes := s.planes, rf := s.rf, gf := s.gf, response := s.response } = s

/-- R155 (the spec's decision D20): an untagged record of any form in an RGB session does nothing but answer BUFFERED,
after the structural checks, which answer FAULT. -/
def Obligations.UntaggedRecordIsIgnoredInRgb : Prop :=
  ∀ (i : Instr) (srcp dstp : Bool) (len cap : Word) (s : State),
    IsSubmit i .untagged srcp dstp len cap → s.lc = .opened → s.dutiesKept srcp dstp len cap → s.mode = .rgb24 →
    exec i s = .next { s with
      response := if srcp = true ∧ dstp = true then answer .buffered 0#32 0#32 else answer .fault 0#32 0#32 }

/-- R158 (a), (b), (d): in an RGB session EMITTED is answered only to a Blue record that finds both flags set, and after
any Blue record that is taken both flags are clear. -/
def Obligations.EmittedOnlyForAFullRow : Prop :=
  ∀ (i : Instr) (tag : PlaneTag) (srcp dstp : Bool) (len cap : Word) (s t : State),
    IsSubmit i tag srcp dstp len cap → s.lc = .opened → s.mode = .rgb24 → exec i s = .next t →
    ((∃ w1 w2, t.response = answer .emitted w1 w2) → tag = .blue ∧ s.rf = true ∧ s.gf = true) ∧
    (tag = .blue → srcp = true → dstp = true → t.rf = false ∧ t.gf = false)

/-- R158 (c): a Red and a Green record give the same planes, flags and destination in either order. -/
def Obligations.RedAndGreenCommute : Prop :=
  ∀ (i j : Instr) (l1 c1 l2 c2 : Word) (s t1 t2 t1' t2' : State) (m m' : Window),
    IsSubmit i .red true true l1 c1 → IsSubmit j .green true true l2 c2 →
    s.lc = .opened → s.mode = .rgb24 →
    exec i { s with src := m } = .next t1 → exec j { t1 with src := m' } = .next t2 →
    exec j { s with src := m' } = .next t1' → exec i { t1' with src := m } = .next t2' →
    { t2' with src := t2.src } = t2

/-- R151 to R156 together: in an RGB session of N pixels, three full RawCopy records, Red, Green, Blue, with a
destination of at least 3N bytes for the Blue one, emit the interleaved row of their source windows, from every row
state; the flags are clear afterwards. -/
def Obligations.ThreeRecordsEmitTheInterleavedRow : Prop :=
  ∀ (s : State) (ps : Planes) (r g b : Window) (lr lg lb cr cg cb : Word),
    s.lc = .opened → s.mode = .rgb24 → s.overlap = false → s.short = false → s.planes = some ps →
    lr.toNat ≤ r.size → lg.toNat ≤ g.size → lb.toNat ≤ b.size →
    cr.toNat ≤ s.dst.size → cg.toNat ≤ s.dst.size → cb.toNat ≤ s.dst.size →
    s.n.toNat ≤ lr.toNat → s.n.toNat ≤ lg.toNat → s.n.toNat ≤ lb.toNat → 3 * s.n.toNat ≤ cb.toNat →
    ∃ t1 t2 t3,
      exec (.submitRaw .red true true lr cr) { s with src := r } = .next t1 ∧
      exec (.submitRaw .green true true lg cg) { t1 with src := g } = .next t2 ∧
      exec (.submitRaw .blue true true lb cb) { t2 with src := b } = .next t3 ∧
      (∀ k, k < s.n.toNat → t3.dst.read (3 * k) = r.read k ∧ t3.dst.read (3 * k + 1) = g.read k ∧
        t3.dst.read (3 * k + 2) = b.read k) ∧
      (∀ a, 3 * s.n.toNat ≤ a → t3.dst.read a = s.dst.read a) ∧
      t3.response = answer .emitted (BitVec.ofNat 32 (3 * s.n.toNat)) 0#32 ∧ t3.rf = false ∧ t3.gf = false

/-- R177: in Gray and Monochrome sessions the tag is ignored. -/
def Obligations.TagIgnoredOutsideRgb : Prop :=
  ∀ (tag tag' : PlaneTag) (srcp dstp : Bool) (len cap : Word) (comp : Byte) (s : State), s.mode ≠ .rgb24 →
    exec (.submitRaw tag srcp dstp len cap) s = exec (.submitRaw tag' srcp dstp len cap) s ∧
    exec (.submitFill tag srcp dstp len cap) s = exec (.submitFill tag' srcp dstp len cap) s ∧
    exec (.submitPackBits tag srcp dstp len cap) s = exec (.submitPackBits tag' srcp dstp len cap) s ∧
    exec (.submitUnknown comp tag srcp dstp len cap) s = exec (.submitUnknown comp tag' srcp dstp len cap) s

/-! ## What a SUBMIT can touch -/

/-- R31, R32: a SUBMIT of any form writes the row flags, the planes, the destination window and the answer, nothing
else; so LC, MODE, N, ALIGN, BPL and MAXBUF are constant within a session. -/
def Obligations.SubmitFrame : Prop :=
  ∀ (i : Instr) (tag : PlaneTag) (srcp dstp : Bool) (len cap : Word) (s t : State),
    IsSubmit i tag srcp dstp len cap → exec i s = .next t →
    { t with rf := s.rf, gf := s.gf, planes := s.planes, dst := s.dst, response := s.response } = s

/-- R52, R58: no SUBMIT writes the destination at its capacity or past it, and none reports more bytes than that. -/
def Obligations.SubmitNeverWritesPastTheCapacity : Prop :=
  ∀ (i : Instr) (tag : PlaneTag) (srcp dstp : Bool) (len cap : Word) (s t : State),
    IsSubmit i tag srcp dstp len cap → exec i s = .next t →
    (∀ a, cap.toNat ≤ a → t.dst.read a = s.dst.read a) ∧
    ∃ r, t.response = some r ∧ r.word1.toNat ≤ cap.toNat ∧ r.word2 = 0#32

/-- R51, R110: no SUBMIT depends on a source byte at its declared length or past it. -/
def Obligations.SubmitReadsOnlyTheDeclaredLength : Prop :=
  ∀ (i : Instr) (tag : PlaneTag) (srcp dstp : Bool) (len cap : Word) (s : State) (m : Window),
    IsSubmit i tag srcp dstp len cap → m.size = s.src.size → (∀ a, a < len.toNat → m.read a = s.src.read a) →
    SameButSrc m (exec i s) (exec i { s with src := m })

/-- R26, R27: no SUBMIT reads ALIGN, BPL or MAXBUF: with other values of them it does and answers the same. -/
def Obligations.SubmitIgnoresTheLayout : Prop :=
  ∀ (i : Instr) (tag : PlaneTag) (srcp dstp : Bool) (len cap : Word) (s : State) (align : Bool) (bpl maxbuf : Word),
    IsSubmit i tag srcp dstp len cap →
    SameButLayout align bpl maxbuf (exec i s) (exec i { s with align := align, bpl := bpl, maxbuf := maxbuf })

/-- R129, R116: a present, empty source window. RawCopy, PackBits and Unknown write nothing and answer EMITTED with 0
in a Gray or Monochrome session, and a Red or Green record still sets its flag in an RGB session; WhiteFill still
fills. -/
def Obligations.ZeroLengthInput : Prop :=
  (∀ (i : Instr) (tag : PlaneTag) (cap : Word) (s : State), IsDecoding i tag true true 0#32 cap →
    s.lc = .opened → s.windowsOk 0#32 cap →
    (s.mode ≠ .rgb24 → exec i s = .next { s with response := answer .emitted 0#32 0#32 }) ∧
    (s.mode = .rgb24 → s.planes ≠ none → tag = .red →
      exec i s = .next { s with rf := true, response := answer .buffered 0#32 0#32 }) ∧
    (s.mode = .rgb24 → s.planes ≠ none → tag = .green →
      exec i s = .next { s with gf := true, response := answer .buffered 0#32 0#32 })) ∧
  (∀ (tag : PlaneTag) (srcp dstp : Bool) (len cap : Word) (s : State),
    exec (.submitFill tag srcp dstp 0#32 cap) s = exec (.submitFill tag srcp dstp len cap) s)

/-! ## Lifecycle and answers -/

/-- R182: the lifecycle transitions, with the answer of each: OPEN by its three cases, of which the failed ones leave the
cleared session; SUBMIT; CLOSE, which leaves the cleared session; an illegal header. -/
def Obligations.LifecycleTransitions : Prop :=
  ∀ (i : Instr) (s t : State), i.isRequest = true → exec i s = .next t →
    ∃ r, t.response = some r ∧
    (∀ mode n align, i = .openSession mode n align →
      (n ≠ 0#16 ∧ ¬ (mode = .rgb24 ∧ s.cfg.planeDepth < n.toNat) ∧ r.status = .ok ∧ t.lc = .opened) ∨
      (n = 0#16 ∧ t = cleared s .invalidConfig) ∨
      (n ≠ 0#16 ∧ mode = .rgb24 ∧ s.cfg.planeDepth < n.toNat ∧ t = cleared s .allocationFailure)) ∧
    (∀ tag srcp dstp len cap, IsSubmit i tag srcp dstp len cap → t.lc = s.lc ∧
      (s.lc ≠ .opened ∨ srcp = false ∨ dstp = false → r.status = .fault) ∧
      (s.lc = .opened → srcp = true → dstp = true → r.status = .emitted ∨ r.status = .buffered)) ∧
    (i = .close → t = cleared s .ok) ∧
    (∀ h, i = .illegal h → r.status = .illegalCommand ∧ t.lc = s.lc)

/-- R82, R83: every request is answered by three words; word 0 is the STATUS value of R82's table, its other bits 0; words
1 and 2 are the layout after a successful OPEN, the byte count and 0 after a SUBMIT that emitted, and 0 otherwise. -/
def Obligations.ResponseWords : Prop :=
  ∀ (i : Instr) (s t : State), i.isRequest = true → exec i s = .next t →
    ∃ r, t.response = some r ∧ r.words = [statusWord r.status, r.word1, r.word2] ∧
      (∀ mode n align, i = .openSession mode n align → r.status = .ok → r.word1 = t.bpl ∧ r.word2 = t.maxbuf) ∧
      (r.status = .emitted → r.word2 = 0#32) ∧
      (r.status ≠ .emitted → (∀ mode n align, i ≠ .openSession mode n align) → r.word1 = 0#32 ∧ r.word2 = 0#32) ∧
      (r.status ≠ .emitted → r.status ≠ .ok → r.word1 = 0#32 ∧ r.word2 = 0#32)

/-- R207: errors are precise: a request answered FAULT or ILLEGAL_COMMAND changed nothing, and a failed OPEN changed
exactly what ClearSession changes. -/
def Obligations.ErrorsArePrecise : Prop :=
  ∀ (i : Instr) (s t : State), i.isRequest = true → exec i s = .next t →
    ∀ r, t.response = some r →
      (r.status = .fault ∨ r.status = .illegalCommand → { t with response := s.response } = s) ∧
      (r.status = .invalidConfig → t = cleared s .invalidConfig) ∧
      (r.status = .allocationFailure → t = cleared s .allocationFailure)

/-- R232: the reset state and the state after CLOSE differ only in LC, and every operation behaves the same from
Unopened and from Closed. -/
def Obligations.UnopenedAndClosedBehaveAlike : Prop :=
  (∀ s t : State, s.run = none → exec .close s = .next t →
    { t with lc := .unopened, response := none } = s.hardReset) ∧
  (∀ (i : Instr) (s : State), s.lc = .closed →
    SameButLc (exec i { s with lc := .unopened }) (exec i s))

/-! ## PackBits -/

/-- R121: PB.LIT copies the next c + 1 source bytes, or those that remain before L, up to the capacity, and advances
in_pos by 1 + (c + 1); nothing else changes. -/
def Obligations.LiteralTokenCopies : Prop :=
  ∀ (count : BitVec 7) (s : State) (u : PbRun), s.run = some u → s.windowsOk u.srcLen u.dstCap →
    exec (.pbLit count) s = .next { s with run := some { u with
      inPos := u.inPos + (1 + (count.toNat + 1))
      ctl := BitVec.ofNat 8 count.toNat
      out := (u.out ++ ((s.src.readBytes 0 u.srcLen.toNat).drop (u.inPos + 1)).take (count.toNat + 1)).take u.cap } }

/-- R122: PB.REP with control byte c repeats the next source byte 257 - c times up to the capacity, nothing where no
byte is left before L, and advances in_pos by 2; nothing else changes. -/
def Obligations.RepeatTokenRepeats : Prop :=
  ∀ (c : Byte) (low : BitVec 7) (s : State) (u : PbRun), decode (.control c) = .ok (.pbRep low) → s.run = some u →
    s.windowsOk u.srcLen u.dstCap →
    exec (.pbRep low) s = .next { s with run := some { u with
      inPos := u.inPos + 2
      ctl := c
      out := (u.out ++ match (s.src.readBytes 0 u.srcLen.toNat)[u.inPos + 1]? with
        | some b => List.replicate (257 - c.toNat) b
        | none => []).take u.cap } }

/-- R123: PB.NOP appends nothing and advances in_pos by 1; nothing else changes. -/
def Obligations.NopTokenSkips : Prop :=
  ∀ (s : State) (u : PbRun), s.run = some u → s.windowsOk u.srcLen u.dstCap →
    exec .pbNop s = .next { s with run := some { u with inPos := u.inPos + 1, ctl := 0x80#8 } }

/-- R21, R33 (log 2, the model's choice): outside a PackBits SUBMIT there is no token to run. -/
def Obligations.TokensOnlyInsideAPackBitsSubmit : Prop :=
  ∀ (s : State) (count low : BitVec 7), s.run = none →
    exec .pbNop s = .refused .tokenOutsidePackBits ∧ exec (.pbLit count) s = .refused .tokenOutsidePackBits ∧
      exec (.pbRep low) s = .refused .tokenOutsidePackBits

/-- R125, R124: the token machine, which stops at the capacity, produces the first K bytes of the unbounded decoding. -/
def Obligations.TokenMachineIsThePrefixOfPB : Prop :=
  ∀ (src : Window) (len : Word) (k : Nat),
    packBitsSamples src len k = (packBits (src.readBytes 0 len.toNat)).take k

/-- R33, R119, R120: a PackBits SUBMIT run one token a step, from its first token to its answer, takes at most L + 1
steps and ends in the very state that the SUBMIT as one indivisible operation gives. -/
def Obligations.TokenByTokenRunIsTheSubmit : Prop :=
  ∀ (s : State) (tag : PlaneTag) (len cap : Word),
    s.run = none → s.lc = .opened → s.windowsOk len cap → (s.mode = .rgb24 → s.planes ≠ none) →
    ∃ k t, k ≤ len.toNat + 1 ∧ Sys2Proof.core.run k (s.beginPackBits tag len cap) = .next t ∧
      exec (.submitPackBits tag true true len cap) s = .next t

/-- R127: a stream decodes to at most 128 bytes per source byte. -/
def Obligations.PackBitsSizeBound : Prop :=
  ∀ s : List Byte, (packBits s).length ≤ 128 * s.length

/-! ## Quantizer -/

/-- R146: the length of the packed line and every bit of it, padding included, for every sequence of samples. -/
def Obligations.QuantizerBits : Prop :=
  ∀ seq : List Byte, PacksTo seq (quantize seq)
end

