-- ==== Sys2Proof/Laws/Decode.lean ====
section
/-! SUPPORT. What the decoder can answer: a request is never a token, and a control byte never a request. -/

namespace Sys2Proof

/-- The four forms of SUBMIT by COMP (R76). -/
theorem decodeSubmit_cases (h len cap : Word) :
    (compField h = 0x00#8 ∧ decodeSubmit h len cap = .submitRaw (tagField h) (srcpField h) (dstpField h) len cap) ∨
    (compField h = 0x01#8 ∧ decodeSubmit h len cap = .submitFill (tagField h) (srcpField h) (dstpField h) len cap) ∨
    (compField h = 0x02#8 ∧
      decodeSubmit h len cap = .submitPackBits (tagField h) (srcpField h) (dstpField h) len cap) ∨
    (compField h ≠ 0x00#8 ∧ compField h ≠ 0x01#8 ∧ compField h ≠ 0x02#8 ∧
      decodeSubmit h len cap = .submitUnknown (compField h) (tagField h) (srcpField h) (dstpField h) len cap) := by
  unfold decodeSubmit
  by_cases h0 : compField h = 0x00#8
  · exact .inl ⟨h0, by simp [h0]⟩
  by_cases h1 : compField h = 0x01#8
  · exact .inr (.inl ⟨h1, by simp [h1]⟩)
  by_cases h2 : compField h = 0x02#8
  · exact .inr (.inr (.inl ⟨h2, by simp [h2]⟩))
  · exact .inr (.inr (.inr ⟨h0, h1, h2, by simp [h0, h1, h2]⟩))

/-- What a request's words decode to (R70): ILLEGAL, SUBMIT with two operand words, OPEN or CLOSE with none. -/
theorem decodeRequest_cases {words : List Word} {i : Instr} (h : decodeRequest words = .ok i) :
    ∃ hd operands, words = hd :: operands ∧
      ((legalHeader hd = false ∧ i = .illegal hd) ∨
       (legalHeader hd = true ∧ opField hd = 0b10#2 ∧ ∃ len cap, operands = [len, cap] ∧ i = decodeSubmit hd len cap) ∨
       (legalHeader hd = true ∧ opField hd = 0b01#2 ∧ operands = [] ∧
         i = .openSession (modeField hd) (nField hd) (alignField hd)) ∨
       (legalHeader hd = true ∧ opField hd ≠ 0b10#2 ∧ opField hd ≠ 0b01#2 ∧ operands = [] ∧ i = .close)) := by
  cases words with
  | nil => simp [decodeRequest] at h
  | cons hd operands =>
    refine ⟨hd, operands, rfl, ?_⟩
    simp only [decodeRequest] at h
    by_cases hl : legalHeader hd = true
    · simp only [hl, if_true] at h
      by_cases h2 : opField hd = 0b10#2
      · simp only [h2, if_true] at h
        split at h
        · exact .inr (.inl ⟨hl, h2, _, _, rfl, by injection h with e; exact e.symm⟩)
        · cases h
      · simp only [h2, if_false] at h
        split at h
        · by_cases h1 : opField hd = 0b01#2
          · simp only [h1, if_true] at h
            exact .inr (.inr (.inl ⟨hl, h1, rfl, by injection h with e; exact e.symm⟩))
          · simp only [h1, if_false] at h
            exact .inr (.inr (.inr ⟨hl, h2, h1, rfl, by injection h with e; exact e.symm⟩))
        · cases h
    · have hl : legalHeader hd = false := by simpa using hl
      simp only [hl, Bool.false_eq_true, if_false] at h
      exact .inl ⟨hl, by injection h with e; exact e.symm⟩

/-- A request is never a PackBits token. -/
theorem decodeRequest_isRequest {words : List Word} {i : Instr} (h : decodeRequest words = .ok i) :
    i.isRequest = true := by
  obtain ⟨hd, operands, -, ⟨-, rfl⟩ | ⟨-, -, len, cap, -, rfl⟩ | ⟨-, -, -, rfl⟩ | ⟨-, -, -, -, rfl⟩⟩ :=
    decodeRequest_cases h
  · rfl
  · rcases decodeSubmit_cases hd len cap with ⟨-, e⟩ | ⟨-, e⟩ | ⟨-, e⟩ | ⟨-, -, -, e⟩ <;> rw [e] <;> rfl
  · rfl
  · rfl

end Sys2Proof
end

