-- ==== Sys2Proof/Laws/Geometry.lean ====
section
/-! SUPPORT. The layout of a valid OPEN: bounds of the line length, so that no 32-bit register overflows (R107). -/

namespace Sys2Proof.Machine

theorem ceilDiv_eight (n : Nat) : ceilDiv n 8 = (n + 7) / 8 := rfl

theorem ceilDiv_four (n : Nat) : ceilDiv n 4 = (n + 3) / 4 := rfl

/-- The unaligned line is between 1 and 3N bytes (R107). -/
theorem baseBytes_bounds (m : ColorMode) {n : Nat} (h : 1 ≤ n) : 1 ≤ baseBytes m n ∧ baseBytes m n ≤ 3 * n := by
  cases m <;> simp only [baseBytes, ceilDiv_eight] <;> omega

/-- Alignment adds at most 3 bytes (R108). -/
theorem alignBytes_bounds (align : Bool) (base : Nat) :
    base ≤ alignBytes align base ∧ alignBytes align base ≤ base + 3 := by
  cases align <;> simp only [alignBytes, Config.alignUnit, ceilDiv_four, if_true, if_false, Bool.false_eq_true] <;>
    omega

/-- What `geometry` answers, with the registers read as numbers: no result overflows (R107). -/
theorem geometry_some {m : ModeField} {n : BitVec 16} {align : Bool} {g : Layout} (h : geometry m n align = some g) :
    n ≠ 0#16 ∧ 1 ≤ n.toNat ∧ g.emode = effectiveMode m ∧
      g.bpl.toNat = alignBytes align (baseBytes (effectiveMode m) n.toNat) ∧
      g.maxbuf.toNat = 16 * g.bpl.toNat := by
  unfold geometry at h
  by_cases hn : n = 0#16
  · simp [hn] at h
  · have h1 : 1 ≤ n.toNat := by
      rcases Nat.eq_zero_or_pos n.toNat with h0 | h0
      · exact absurd (BitVec.eq_of_toNat_eq (by simpa using h0)) hn
      · exact h0
    have hlt := n.isLt
    have hb := baseBytes_bounds (effectiveMode m) h1
    have ha := alignBytes_bounds align (baseBytes (effectiveMode m) n.toNat)
    simp only [hn, if_false, Option.some.injEq] at h
    subst h
    refine ⟨hn, h1, rfl, ?_, ?_⟩ <;>
      simp only [BitVec.toNat_ofNat, Config.multilineFactor] <;> omega

theorem geometry_none {m : ModeField} {n : BitVec 16} {align : Bool} (h : geometry m n align = none) : n = 0#16 := by
  unfold geometry at h
  by_cases hn : n = 0#16
  · exact hn
  · simp [hn] at h

theorem geometry_of_pos (m : ModeField) {n : BitVec 16} (align : Bool) (h : n ≠ 0#16) :
    ∃ g, geometry m n align = some g := by
  unfold geometry
  simp [h]

end Sys2Proof.Machine
end

