-- ==== Sys2Proof/Laws/Memory.lean ====
section
/-! SUPPORT. The laws of sparse memory: a read after a write, the untouched rest, and that every operation keeps the
canonical form. -/

namespace Sys2Proof.Machine

theorem Memory.read_nil (a : Nat) : Memory.read [] a = Memory.unlisted := rfl

theorem Memory.read_cons (k : Nat) (v : Byte) (m : Memory) (a : Nat) :
    Memory.read ((k, v) :: m) a = if k = a then v else Memory.read m a := rfl

theorem Memory.erase_cons (k : Nat) (v : Byte) (m : Memory) (a : Nat) :
    Memory.erase ((k, v) :: m) a = if k = a then Memory.erase m a else (k, v) :: Memory.erase m a := by
  by_cases h : k = a <;> simp [Memory.erase, h]

theorem Memory.place_cons (k : Nat) (v : Byte) (m : Memory) (a : Nat) (b : Byte) :
    Memory.place ((k, v) :: m) a b = if k < a then (k, v) :: Memory.place m a b else (a, b) :: (k, v) :: m := rfl

theorem Memory.read_erase (m : Memory) (a a' : Nat) :
    Memory.read (Memory.erase m a) a' = if a' = a then Memory.unlisted else Memory.read m a' := by
  induction m with
  | nil => simp [Memory.erase, Memory.read]
  | cons c m ih =>
    obtain ⟨k, v⟩ := c
    rw [Memory.erase_cons, Memory.read_cons]
    by_cases hk : k = a
    · subst hk
      by_cases ha : a' = k
      · subst ha; simpa using ih
      · simp [ih, ha, Ne.symm ha]
    · simp only [hk, if_false, Memory.read_cons, ih]
      by_cases ha : a' = a
      · subst ha; simp [hk]
      · simp [ha]

theorem Memory.read_place (m : Memory) (a a' : Nat) (b : Byte) (hm : ∀ c ∈ m, c.1 ≠ a) :
    Memory.read (Memory.place m a b) a' = if a' = a then b else Memory.read m a' := by
  induction m with
  | nil => simp [Memory.place, Memory.read, eq_comm]
  | cons c m ih =>
    obtain ⟨k, v⟩ := c
    have hk : k ≠ a := hm (k, v) (by simp)
    rw [Memory.place_cons]
    split
    · rw [Memory.read_cons, ih (fun c hc => hm c (by simp [hc])), Memory.read_cons]
      by_cases ha : a' = a
      · subst ha; simp [hk]
      · simp [ha]
    · rw [Memory.read_cons]
      by_cases ha : a' = a
      · simp [ha]
      · simp [ha, Ne.symm ha]

theorem Memory.mem_erase {m : Memory} {a : Nat} {c : Host.Cell} :
    c ∈ Memory.erase m a ↔ c ∈ m ∧ c.1 ≠ a := by
  simp [Memory.erase]

/-- A byte that was written is read back; every other offset reads as before. -/
theorem Memory.read_write (m : Memory) (a a' : Nat) (b : Byte) :
    (m.write a b).read a' = if a' = a then b else m.read a' := by
  unfold Memory.write
  split
  · rename_i h
    rw [Memory.read_erase, h]
  · rw [Memory.read_place _ _ _ _ (fun c hc => (Memory.mem_erase.1 hc).2), Memory.read_erase]
    by_cases ha : a' = a <;> simp [ha]

/-- After a run of bytes was written, its offsets read them and every other offset reads as before. -/
theorem Memory.read_writeBytes (m : Memory) (start : Nat) (bs : List Byte) (a : Nat) :
    (m.writeBytes start bs).read a =
      if start ≤ a then (bs[a - start]?).getD (m.read a) else m.read a := by
  induction bs generalizing m start with
  | nil => simp [Memory.writeBytes]
  | cons b bs ih =>
    rw [Memory.writeBytes, ih, Memory.read_write]
    by_cases h : start + 1 ≤ a
    · obtain ⟨d, rfl⟩ : ∃ d, a = start + 1 + d := ⟨a - (start + 1), by omega⟩
      have e : start + 1 + d - start = d + 1 := by omega
      have e' : start + 1 + d ≠ start := by omega
      simp [e, e', show start ≤ start + 1 + d by omega]
    · by_cases ha : a = start
      · subst ha; simp
      · have h' : ¬ start ≤ a := by omega
        simp [h, h', ha]

theorem Memory.read_writeBytes_zero (m : Memory) (bs : List Byte) (a : Nat) :
    (m.writeBytes 0 bs).read a = (bs[a]?).getD (m.read a) := by
  simp [Memory.read_writeBytes]

@[simp] theorem Memory.length_readBytes (m : Memory) (start count : Nat) :
    (m.readBytes start count).length = count := by
  induction count generalizing start with
  | zero => rfl
  | succ k ih => simp [Memory.readBytes, ih]

theorem Memory.getElem?_readBytes (m : Memory) (start count i : Nat) :
    (m.readBytes start count)[i]? = if i < count then some (m.read (start + i)) else none := by
  induction count generalizing start i with
  | zero => simp [Memory.readBytes]
  | succ k ih =>
    cases i with
    | zero => simp [Memory.readBytes]
    | succ i =>
      simp only [Memory.readBytes, List.getElem?_cons_succ, ih, Nat.add_lt_add_iff_right]
      rw [show start + 1 + i = start + (i + 1) by omega]

/-- Reading fewer bytes gives the first of them. -/
theorem Memory.take_readBytes (m : Memory) (start count k : Nat) :
    (m.readBytes start count).take k = m.readBytes start (min count k) := by
  apply List.ext_getElem?
  intro i
  rw [List.getElem?_take, Memory.getElem?_readBytes, Memory.getElem?_readBytes]
  by_cases h : i < k <;> by_cases h' : i < count <;> simp [h, h']

theorem Memory.drop_readBytes (m : Memory) (start count k : Nat) :
    (m.readBytes start count).drop k = m.readBytes (start + k) (count - k) := by
  apply List.ext_getElem?
  intro i
  rw [List.getElem?_drop, Memory.getElem?_readBytes, Memory.getElem?_readBytes]
  have : (k + i < count) ↔ (i < count - k) := by omega
  simp [this, Nat.add_assoc]

/-- Bytes that agree with another memory's are the same bytes. -/
theorem Memory.readBytes_congr {m m' : Memory} {start count : Nat}
    (h : ∀ i, i < count → m.read (start + i) = m'.read (start + i)) :
    m.readBytes start count = m'.readBytes start count := by
  induction count generalizing start with
  | zero => rfl
  | succ k ih =>
    rw [Memory.readBytes, Memory.readBytes, ih (fun i hi => by
      have := h (i + 1) (by omega)
      rwa [show start + (i + 1) = start + 1 + i by omega] at this)]
    have := h 0 (by omega)
    simp only [Nat.add_zero] at this
    rw [this]

/-! ## The canonical form -/

theorem Memory.wf_nil : Memory.wf [] := by simp [Memory.wf]

theorem Memory.wf_erase {m : Memory} (h : m.wf) (a : Nat) : (m.erase a).wf :=
  ⟨h.1.filter _, fun c hc => h.2 c (Memory.mem_erase.1 hc).1⟩

theorem Memory.mem_place {m : Memory} {a : Nat} {b : Byte} {c : Host.Cell} :
    c ∈ Memory.place m a b ↔ c = (a, b) ∨ c ∈ m := by
  induction m with
  | nil => simp [Memory.place]
  | cons d m ih =>
    obtain ⟨k, v⟩ := d
    rw [Memory.place_cons]
    split
    · simp only [List.mem_cons, ih]; exact or_left_comm
    · simp only [List.mem_cons]

theorem Memory.wf_place {m : Memory} (h : m.wf) {a : Nat} {b : Byte} (hb : b ≠ Memory.unlisted)
    (hm : ∀ c ∈ m, c.1 ≠ a) : (m.place a b).wf := by
  refine ⟨?_, fun c hc => ?_⟩
  · induction m with
    | nil => simp [Memory.place]
    | cons d m ih =>
      obtain ⟨k, v⟩ := d
      have hp := List.pairwise_cons.1 h.1
      have hk : k ≠ a := hm (k, v) (by simp)
      rw [Memory.place_cons]
      split
      · rename_i hlt
        refine List.pairwise_cons.2 ⟨fun c hc => ?_, ih ⟨hp.2, fun c hc => h.2 c (by simp [hc])⟩
          (fun c hc => hm c (by simp [hc]))⟩
        rcases Memory.mem_place.1 hc with rfl | hc
        · exact hlt
        · exact hp.1 c hc
      · refine List.pairwise_cons.2 ⟨fun c hc => ?_, h.1⟩
        have hak : a < k := by omega
        rcases List.mem_cons.1 hc with rfl | hc
        · exact hak
        · exact Nat.lt_trans hak (hp.1 c hc)
  · rcases Memory.mem_place.1 hc with rfl | hc
    · exact hb
    · exact h.2 c hc

/-- Writing a byte keeps the canonical form. -/
theorem Memory.wf_write {m : Memory} (h : m.wf) (a : Nat) (b : Byte) : (m.write a b).wf := by
  unfold Memory.write
  split
  · exact Memory.wf_erase h a
  · rename_i hb
    exact Memory.wf_place (Memory.wf_erase h a) hb (fun c hc => (Memory.mem_erase.1 hc).2)

/-- Writing a run of bytes keeps the canonical form. -/
theorem Memory.wf_writeBytes {m : Memory} (h : m.wf) (start : Nat) (bs : List Byte) : (m.writeBytes start bs).wf := by
  induction bs generalizing m start with
  | nil => exact h
  | cons b bs ih => exact ih (Memory.wf_write h start b) (start + 1)

/-- A write below a bound keeps every listed offset below it. -/
theorem Memory.bound_write {m : Memory} {k : Nat} (h : ∀ c ∈ m, c.1 < k) {a : Nat} (ha : a < k) (b : Byte) :
    ∀ c ∈ m.write a b, c.1 < k := by
  intro c hc
  unfold Memory.write at hc
  split at hc
  · exact h c (Memory.mem_erase.1 hc).1
  · rcases Memory.mem_place.1 hc with rfl | hc
    · exact ha
    · exact h c (Memory.mem_erase.1 hc).1

/-- The same for a run of bytes that ends at or below the bound. -/
theorem Memory.bound_writeBytes {m : Memory} {k : Nat} (h : ∀ c ∈ m, c.1 < k) (start : Nat) (bs : List Byte)
    (hb : start + bs.length ≤ k) : ∀ c ∈ m.writeBytes start bs, c.1 < k := by
  induction bs generalizing m start with
  | nil => exact h
  | cons b bs ih =>
    simp only [List.length_cons] at hb
    exact ih (Memory.bound_write h (by omega) b) (start + 1) (by omega)

/-! ## Equal contents are equal data -/

/-- Below every listed offset of a canonical memory, and past none, it reads unlisted. -/
theorem Memory.read_below {m : Memory} {a : Nat} (h : ∀ c ∈ m, a < c.1) : m.read a = Memory.unlisted := by
  induction m with
  | nil => rfl
  | cons c m ih =>
    obtain ⟨k, v⟩ := c
    have hk : k ≠ a := fun e => by have := h (k, v) (by simp); simp only at this; omega
    rw [Memory.read_cons, if_neg hk]
    exact ih (fun c hc => h c (by simp [hc]))

/-- Two canonical memories that read alike everywhere are the same list. -/
theorem Memory.ext_of_wf {m m' : Memory} (h : m.wf) (h' : m'.wf) (hr : ∀ a, m.read a = m'.read a) : m = m' := by
  induction m generalizing m' with
  | nil =>
    cases m' with
    | nil => rfl
    | cons c t =>
      have := hr c.1
      rw [Memory.read_nil, Memory.read_cons, if_pos rfl] at this
      exact absurd this.symm (h'.2 c (by simp))
  | cons c t ih =>
    cases m' with
    | nil =>
      have := hr c.1
      rw [Memory.read_nil, Memory.read_cons, if_pos rfl] at this
      exact absurd this (h.2 c (by simp))
    | cons c' t' =>
      have hp := List.pairwise_cons.1 h.1
      have hp' := List.pairwise_cons.1 h'.1
      have hv : c.2 ≠ Memory.unlisted := h.2 c (by simp)
      have hv' : c'.2 ≠ Memory.unlisted := h'.2 c' (by simp)
      have hk : c.1 = c'.1 := by
        rcases Nat.lt_trichotomy c.1 c'.1 with lt | eq | gt
        · have e := hr c.1
          rw [Memory.read_cons, if_pos rfl, Memory.read_below (m := c' :: t')] at e
          · exact absurd e hv
          · intro d hd
            rcases List.mem_cons.1 hd with rfl | hd
            · exact lt
            · exact Nat.lt_trans lt (hp'.1 d hd)
        · exact eq
        · have e := hr c'.1
          rw [Memory.read_cons (k := c'.1), if_pos rfl, Memory.read_below (m := c :: t)] at e
          · exact absurd e.symm hv'
          · intro d hd
            rcases List.mem_cons.1 hd with rfl | hd
            · exact gt
            · exact Nat.lt_trans gt (hp.1 d hd)
      have hval : c.2 = c'.2 := by
        have e := hr c.1
        rwa [Memory.read_cons, if_pos rfl, Memory.read_cons, if_pos hk.symm] at e
      have hc : c = c' := Prod.ext hk hval
      subst hc
      congr 1
      refine ih ⟨hp.2, fun d hd => h.2 d (by simp [hd])⟩ ⟨hp'.2, fun d hd => h'.2 d (by simp [hd])⟩ (fun a => ?_)
      by_cases ha : a = c.1
      · subst ha
        rw [Memory.read_below hp.1, Memory.read_below hp'.1]
      · have e := hr a
        rwa [Memory.read_cons, if_neg (Ne.symm ha), Memory.read_cons, if_neg (Ne.symm ha)] at e

/-! ## Windows -/

@[simp] theorem Window.writeBytes_size (w : Window) (start : Nat) (bs : List Byte) :
    (w.writeBytes start bs).size = w.size := rfl

@[simp] theorem Window.resize_size (w : Window) (k : Nat) : (w.resize k).size = k := rfl

@[simp] theorem Window.cut_size (w : Window) (k : Nat) : (w.cut k).size = min w.size k := rfl

@[simp] theorem Window.readBytes_zero (w : Window) (start : Nat) : w.readBytes start 0 = [] := rfl

theorem Window.readBytes_succ (w : Window) (start k : Nat) :
    w.readBytes start (k + 1) = w.read start :: w.readBytes (start + 1) k := rfl

theorem Window.read_writeBytes_zero (w : Window) (bs : List Byte) (a : Nat) :
    (w.writeBytes 0 bs).read a = (bs[a]?).getD (w.read a) := Memory.read_writeBytes_zero w.bytes bs a

@[simp] theorem Window.length_readBytes (w : Window) (start count : Nat) : (w.readBytes start count).length = count :=
  Memory.length_readBytes w.bytes start count

theorem Window.getElem?_readBytes (w : Window) (start count i : Nat) :
    (w.readBytes start count)[i]? = if i < count then some (w.read (start + i)) else none :=
  Memory.getElem?_readBytes w.bytes start count i

theorem Window.take_readBytes (w : Window) (start count k : Nat) :
    (w.readBytes start count).take k = w.readBytes start (min count k) := Memory.take_readBytes w.bytes start count k

theorem Window.drop_readBytes (w : Window) (start count k : Nat) :
    (w.readBytes start count).drop k = w.readBytes (start + k) (count - k) := Memory.drop_readBytes w.bytes start count k

theorem Window.readBytes_congr {w w' : Window} {start count : Nat}
    (h : ∀ i, i < count → w.read (start + i) = w'.read (start + i)) :
    w.readBytes start count = w'.readBytes start count := Memory.readBytes_congr h

/-- The bytes of a resized window below its new size are those of the old one. -/
theorem Window.read_resize (w : Window) (k a : Nat) :
    (w.resize k).read a = if a < k then w.read a else Memory.unlisted := by
  unfold Window.resize Window.read
  induction w.bytes with
  | nil => simp [Memory.read]
  | cons c m ih =>
    obtain ⟨j, v⟩ := c
    simp only [List.filter_cons, Memory.read_cons]
    split
    · rw [Memory.read_cons, ih]
      by_cases ha : j = a
      · subst ha; simp_all
      · simp [ha]
    · rename_i hj
      rw [ih]
      by_cases ha : j = a
      · subst ha
        have hj : ¬ j < k := by simpa using hj
        simp [hj]
      · simp [ha]

/-- A resized window is canonical. -/
theorem Window.wf_resize {w : Window} (h : w.bytes.wf) (k : Nat) : (w.resize k).wf :=
  ⟨⟨h.1.filter _, fun c hc => h.2 c (List.mem_filter.1 hc).1⟩, fun c hc => by simpa using (List.mem_filter.1 hc).2⟩

theorem Window.wf_cut {w : Window} (h : w.wf) (k : Nat) : (w.cut k).wf := Window.wf_resize h.1 _

/-- Writing a run of bytes within the size keeps the canonical form. -/
theorem Window.wf_writeBytes {w : Window} (h : w.wf) (start : Nat) (bs : List Byte) (hb : start + bs.length ≤ w.size) :
    (w.writeBytes start bs).wf :=
  ⟨Memory.wf_writeBytes h.1 start bs, Memory.bound_writeBytes h.2 start bs hb⟩

end Sys2Proof.Machine
end

