-- ==== Sys2Proof/Laws/State.lean ====
section
/-! SUPPORT. One lemma per field per state update: what it sets, and that it leaves the others alone. -/

namespace Sys2Proof.Machine

/-! ## `State.respond` -/

@[simp] theorem State.respond_cfg (s : State) (st : Status) (w1 w2 : Word) : (s.respond st w1 w2).cfg = s.cfg := rfl
@[simp] theorem State.respond_lc (s : State) (st : Status) (w1 w2 : Word) : (s.respond st w1 w2).lc = s.lc := rfl
@[simp] theorem State.respond_mode (s : State) (st : Status) (w1 w2 : Word) : (s.respond st w1 w2).mode = s.mode := rfl
@[simp] theorem State.respond_n (s : State) (st : Status) (w1 w2 : Word) : (s.respond st w1 w2).n = s.n := rfl
@[simp] theorem State.respond_align (s : State) (st : Status) (w1 w2 : Word) : (s.respond st w1 w2).align = s.align := rfl
@[simp] theorem State.respond_bpl (s : State) (st : Status) (w1 w2 : Word) : (s.respond st w1 w2).bpl = s.bpl := rfl
@[simp] theorem State.respond_maxbuf (s : State) (st : Status) (w1 w2 : Word) : (s.respond st w1 w2).maxbuf = s.maxbuf := rfl
@[simp] theorem State.respond_rf (s : State) (st : Status) (w1 w2 : Word) : (s.respond st w1 w2).rf = s.rf := rfl
@[simp] theorem State.respond_gf (s : State) (st : Status) (w1 w2 : Word) : (s.respond st w1 w2).gf = s.gf := rfl
@[simp] theorem State.respond_planes (s : State) (st : Status) (w1 w2 : Word) : (s.respond st w1 w2).planes = s.planes := rfl
@[simp] theorem State.respond_run (s : State) (st : Status) (w1 w2 : Word) : (s.respond st w1 w2).run = s.run := rfl
@[simp] theorem State.respond_src (s : State) (st : Status) (w1 w2 : Word) : (s.respond st w1 w2).src = s.src := rfl
@[simp] theorem State.respond_dst (s : State) (st : Status) (w1 w2 : Word) : (s.respond st w1 w2).dst = s.dst := rfl
@[simp] theorem State.respond_overlap (s : State) (st : Status) (w1 w2 : Word) : (s.respond st w1 w2).overlap = s.overlap := rfl
@[simp] theorem State.respond_short (s : State) (st : Status) (w1 w2 : Word) : (s.respond st w1 w2).short = s.short := rfl
@[simp] theorem State.respond_inbox (s : State) (st : Status) (w1 w2 : Word) : (s.respond st w1 w2).inbox = s.inbox := rfl
@[simp] theorem State.respond_response (s : State) (st : Status) (w1 w2 : Word) : (s.respond st w1 w2).response = some { status := st, word1 := w1, word2 := w2 } := rfl
@[simp] theorem State.respond_draws (s : State) (st : Status) (w1 w2 : Word) : (s.respond st w1 w2).draws = s.draws := rfl

/-! ## `State.setDst` -/

@[simp] theorem State.setDst_cfg (s : State) (m : Window) : (s.setDst m).cfg = s.cfg := rfl
@[simp] theorem State.setDst_lc (s : State) (m : Window) : (s.setDst m).lc = s.lc := rfl
@[simp] theorem State.setDst_mode (s : State) (m : Window) : (s.setDst m).mode = s.mode := rfl
@[simp] theorem State.setDst_n (s : State) (m : Window) : (s.setDst m).n = s.n := rfl
@[simp] theorem State.setDst_align (s : State) (m : Window) : (s.setDst m).align = s.align := rfl
@[simp] theorem State.setDst_bpl (s : State) (m : Window) : (s.setDst m).bpl = s.bpl := rfl
@[simp] theorem State.setDst_maxbuf (s : State) (m : Window) : (s.setDst m).maxbuf = s.maxbuf := rfl
@[simp] theorem State.setDst_rf (s : State) (m : Window) : (s.setDst m).rf = s.rf := rfl
@[simp] theorem State.setDst_gf (s : State) (m : Window) : (s.setDst m).gf = s.gf := rfl
@[simp] theorem State.setDst_planes (s : State) (m : Window) : (s.setDst m).planes = s.planes := rfl
@[simp] theorem State.setDst_run (s : State) (m : Window) : (s.setDst m).run = s.run := rfl
@[simp] theorem State.setDst_src (s : State) (m : Window) : (s.setDst m).src = s.src := rfl
@[simp] theorem State.setDst_dst (s : State) (m : Window) : (s.setDst m).dst = m := rfl
@[simp] theorem State.setDst_overlap (s : State) (m : Window) : (s.setDst m).overlap = s.overlap := rfl
@[simp] theorem State.setDst_short (s : State) (m : Window) : (s.setDst m).short = s.short := rfl
@[simp] theorem State.setDst_inbox (s : State) (m : Window) : (s.setDst m).inbox = s.inbox := rfl
@[simp] theorem State.setDst_response (s : State) (m : Window) : (s.setDst m).response = s.response := rfl
@[simp] theorem State.setDst_draws (s : State) (m : Window) : (s.setDst m).draws = s.draws := rfl

/-! ## `State.setPlanes` -/

@[simp] theorem State.setPlanes_cfg (s : State) (ps : Planes) : (s.setPlanes ps).cfg = s.cfg := rfl
@[simp] theorem State.setPlanes_lc (s : State) (ps : Planes) : (s.setPlanes ps).lc = s.lc := rfl
@[simp] theorem State.setPlanes_mode (s : State) (ps : Planes) : (s.setPlanes ps).mode = s.mode := rfl
@[simp] theorem State.setPlanes_n (s : State) (ps : Planes) : (s.setPlanes ps).n = s.n := rfl
@[simp] theorem State.setPlanes_align (s : State) (ps : Planes) : (s.setPlanes ps).align = s.align := rfl
@[simp] theorem State.setPlanes_bpl (s : State) (ps : Planes) : (s.setPlanes ps).bpl = s.bpl := rfl
@[simp] theorem State.setPlanes_maxbuf (s : State) (ps : Planes) : (s.setPlanes ps).maxbuf = s.maxbuf := rfl
@[simp] theorem State.setPlanes_rf (s : State) (ps : Planes) : (s.setPlanes ps).rf = s.rf := rfl
@[simp] theorem State.setPlanes_gf (s : State) (ps : Planes) : (s.setPlanes ps).gf = s.gf := rfl
@[simp] theorem State.setPlanes_planes (s : State) (ps : Planes) : (s.setPlanes ps).planes = some ps := rfl
@[simp] theorem State.setPlanes_run (s : State) (ps : Planes) : (s.setPlanes ps).run = s.run := rfl
@[simp] theorem State.setPlanes_src (s : State) (ps : Planes) : (s.setPlanes ps).src = s.src := rfl
@[simp] theorem State.setPlanes_dst (s : State) (ps : Planes) : (s.setPlanes ps).dst = s.dst := rfl
@[simp] theorem State.setPlanes_overlap (s : State) (ps : Planes) : (s.setPlanes ps).overlap = s.overlap := rfl
@[simp] theorem State.setPlanes_short (s : State) (ps : Planes) : (s.setPlanes ps).short = s.short := rfl
@[simp] theorem State.setPlanes_inbox (s : State) (ps : Planes) : (s.setPlanes ps).inbox = s.inbox := rfl
@[simp] theorem State.setPlanes_response (s : State) (ps : Planes) : (s.setPlanes ps).response = s.response := rfl
@[simp] theorem State.setPlanes_draws (s : State) (ps : Planes) : (s.setPlanes ps).draws = s.draws := rfl

/-! ## `State.setFlags` -/

@[simp] theorem State.setFlags_cfg (s : State) (rf gf : Bool) : (s.setFlags rf gf).cfg = s.cfg := rfl
@[simp] theorem State.setFlags_lc (s : State) (rf gf : Bool) : (s.setFlags rf gf).lc = s.lc := rfl
@[simp] theorem State.setFlags_mode (s : State) (rf gf : Bool) : (s.setFlags rf gf).mode = s.mode := rfl
@[simp] theorem State.setFlags_n (s : State) (rf gf : Bool) : (s.setFlags rf gf).n = s.n := rfl
@[simp] theorem State.setFlags_align (s : State) (rf gf : Bool) : (s.setFlags rf gf).align = s.align := rfl
@[simp] theorem State.setFlags_bpl (s : State) (rf gf : Bool) : (s.setFlags rf gf).bpl = s.bpl := rfl
@[simp] theorem State.setFlags_maxbuf (s : State) (rf gf : Bool) : (s.setFlags rf gf).maxbuf = s.maxbuf := rfl
@[simp] theorem State.setFlags_rf (s : State) (rf gf : Bool) : (s.setFlags rf gf).rf = rf := rfl
@[simp] theorem State.setFlags_gf (s : State) (rf gf : Bool) : (s.setFlags rf gf).gf = gf := rfl
@[simp] theorem State.setFlags_planes (s : State) (rf gf : Bool) : (s.setFlags rf gf).planes = s.planes := rfl
@[simp] theorem State.setFlags_run (s : State) (rf gf : Bool) : (s.setFlags rf gf).run = s.run := rfl
@[simp] theorem State.setFlags_src (s : State) (rf gf : Bool) : (s.setFlags rf gf).src = s.src := rfl
@[simp] theorem State.setFlags_dst (s : State) (rf gf : Bool) : (s.setFlags rf gf).dst = s.dst := rfl
@[simp] theorem State.setFlags_overlap (s : State) (rf gf : Bool) : (s.setFlags rf gf).overlap = s.overlap := rfl
@[simp] theorem State.setFlags_short (s : State) (rf gf : Bool) : (s.setFlags rf gf).short = s.short := rfl
@[simp] theorem State.setFlags_inbox (s : State) (rf gf : Bool) : (s.setFlags rf gf).inbox = s.inbox := rfl
@[simp] theorem State.setFlags_response (s : State) (rf gf : Bool) : (s.setFlags rf gf).response = s.response := rfl
@[simp] theorem State.setFlags_draws (s : State) (rf gf : Bool) : (s.setFlags rf gf).draws = s.draws := rfl

/-! ## `State.setRun` -/

@[simp] theorem State.setRun_cfg (s : State) (u : PbRun) : (s.setRun u).cfg = s.cfg := rfl
@[simp] theorem State.setRun_lc (s : State) (u : PbRun) : (s.setRun u).lc = s.lc := rfl
@[simp] theorem State.setRun_mode (s : State) (u : PbRun) : (s.setRun u).mode = s.mode := rfl
@[simp] theorem State.setRun_n (s : State) (u : PbRun) : (s.setRun u).n = s.n := rfl
@[simp] theorem State.setRun_align (s : State) (u : PbRun) : (s.setRun u).align = s.align := rfl
@[simp] theorem State.setRun_bpl (s : State) (u : PbRun) : (s.setRun u).bpl = s.bpl := rfl
@[simp] theorem State.setRun_maxbuf (s : State) (u : PbRun) : (s.setRun u).maxbuf = s.maxbuf := rfl
@[simp] theorem State.setRun_rf (s : State) (u : PbRun) : (s.setRun u).rf = s.rf := rfl
@[simp] theorem State.setRun_gf (s : State) (u : PbRun) : (s.setRun u).gf = s.gf := rfl
@[simp] theorem State.setRun_planes (s : State) (u : PbRun) : (s.setRun u).planes = s.planes := rfl
@[simp] theorem State.setRun_run (s : State) (u : PbRun) : (s.setRun u).run = some u := rfl
@[simp] theorem State.setRun_src (s : State) (u : PbRun) : (s.setRun u).src = s.src := rfl
@[simp] theorem State.setRun_dst (s : State) (u : PbRun) : (s.setRun u).dst = s.dst := rfl
@[simp] theorem State.setRun_overlap (s : State) (u : PbRun) : (s.setRun u).overlap = s.overlap := rfl
@[simp] theorem State.setRun_short (s : State) (u : PbRun) : (s.setRun u).short = s.short := rfl
@[simp] theorem State.setRun_inbox (s : State) (u : PbRun) : (s.setRun u).inbox = s.inbox := rfl
@[simp] theorem State.setRun_response (s : State) (u : PbRun) : (s.setRun u).response = s.response := rfl
@[simp] theorem State.setRun_draws (s : State) (u : PbRun) : (s.setRun u).draws = s.draws := rfl

/-! ## `State.endRun` -/

@[simp] theorem State.endRun_cfg (s : State) : (s.endRun).cfg = s.cfg := rfl
@[simp] theorem State.endRun_lc (s : State) : (s.endRun).lc = s.lc := rfl
@[simp] theorem State.endRun_mode (s : State) : (s.endRun).mode = s.mode := rfl
@[simp] theorem State.endRun_n (s : State) : (s.endRun).n = s.n := rfl
@[simp] theorem State.endRun_align (s : State) : (s.endRun).align = s.align := rfl
@[simp] theorem State.endRun_bpl (s : State) : (s.endRun).bpl = s.bpl := rfl
@[simp] theorem State.endRun_maxbuf (s : State) : (s.endRun).maxbuf = s.maxbuf := rfl
@[simp] theorem State.endRun_rf (s : State) : (s.endRun).rf = s.rf := rfl
@[simp] theorem State.endRun_gf (s : State) : (s.endRun).gf = s.gf := rfl
@[simp] theorem State.endRun_planes (s : State) : (s.endRun).planes = s.planes := rfl
@[simp] theorem State.endRun_run (s : State) : (s.endRun).run = none := rfl
@[simp] theorem State.endRun_src (s : State) : (s.endRun).src = s.src := rfl
@[simp] theorem State.endRun_dst (s : State) : (s.endRun).dst = s.dst := rfl
@[simp] theorem State.endRun_overlap (s : State) : (s.endRun).overlap = s.overlap := rfl
@[simp] theorem State.endRun_short (s : State) : (s.endRun).short = s.short := rfl
@[simp] theorem State.endRun_inbox (s : State) : (s.endRun).inbox = s.inbox := rfl
@[simp] theorem State.endRun_response (s : State) : (s.endRun).response = s.response := rfl
@[simp] theorem State.endRun_draws (s : State) : (s.endRun).draws = s.draws := rfl

/-! ## `State.clearSession` -/

@[simp] theorem State.clearSession_cfg (s : State) : (s.clearSession).cfg = s.cfg := rfl
@[simp] theorem State.clearSession_lc (s : State) : (s.clearSession).lc = .closed := rfl
@[simp] theorem State.clearSession_mode (s : State) : (s.clearSession).mode = .mono1 := rfl
@[simp] theorem State.clearSession_n (s : State) : (s.clearSession).n = 0#16 := rfl
@[simp] theorem State.clearSession_align (s : State) : (s.clearSession).align = false := rfl
@[simp] theorem State.clearSession_bpl (s : State) : (s.clearSession).bpl = 0#32 := rfl
@[simp] theorem State.clearSession_maxbuf (s : State) : (s.clearSession).maxbuf = 0#32 := rfl
@[simp] theorem State.clearSession_rf (s : State) : (s.clearSession).rf = false := rfl
@[simp] theorem State.clearSession_gf (s : State) : (s.clearSession).gf = false := rfl
@[simp] theorem State.clearSession_planes (s : State) : (s.clearSession).planes = none := rfl
@[simp] theorem State.clearSession_run (s : State) : (s.clearSession).run = s.run := rfl
@[simp] theorem State.clearSession_src (s : State) : (s.clearSession).src = s.src := rfl
@[simp] theorem State.clearSession_dst (s : State) : (s.clearSession).dst = s.dst := rfl
@[simp] theorem State.clearSession_overlap (s : State) : (s.clearSession).overlap = s.overlap := rfl
@[simp] theorem State.clearSession_short (s : State) : (s.clearSession).short = s.short := rfl
@[simp] theorem State.clearSession_inbox (s : State) : (s.clearSession).inbox = s.inbox := rfl
@[simp] theorem State.clearSession_response (s : State) : (s.clearSession).response = s.response := rfl
@[simp] theorem State.clearSession_draws (s : State) : (s.clearSession).draws = s.draws := rfl

/-! ## `State.install` -/

@[simp] theorem State.install_cfg (s : State) (g : Layout) (n : BitVec 16) (align : Bool) (planes : Option Planes) : (s.install g n align planes).cfg = s.cfg := rfl
@[simp] theorem State.install_lc (s : State) (g : Layout) (n : BitVec 16) (align : Bool) (planes : Option Planes) : (s.install g n align planes).lc = .opened := rfl
@[simp] theorem State.install_mode (s : State) (g : Layout) (n : BitVec 16) (align : Bool) (planes : Option Planes) : (s.install g n align planes).mode = g.emode := rfl
@[simp] theorem State.install_n (s : State) (g : Layout) (n : BitVec 16) (align : Bool) (planes : Option Planes) : (s.install g n align planes).n = n := rfl
@[simp] theorem State.install_align (s : State) (g : Layout) (n : BitVec 16) (align : Bool) (planes : Option Planes) : (s.install g n align planes).align = align := rfl
@[simp] theorem State.install_bpl (s : State) (g : Layout) (n : BitVec 16) (align : Bool) (planes : Option Planes) : (s.install g n align planes).bpl = g.bpl := rfl
@[simp] theorem State.install_maxbuf (s : State) (g : Layout) (n : BitVec 16) (align : Bool) (planes : Option Planes) : (s.install g n align planes).maxbuf = g.maxbuf := rfl
@[simp] theorem State.install_rf (s : State) (g : Layout) (n : BitVec 16) (align : Bool) (planes : Option Planes) : (s.install g n align planes).rf = false := rfl
@[simp] theorem State.install_gf (s : State) (g : Layout) (n : BitVec 16) (align : Bool) (planes : Option Planes) : (s.install g n align planes).gf = false := rfl
@[simp] theorem State.install_planes (s : State) (g : Layout) (n : BitVec 16) (align : Bool) (planes : Option Planes) : (s.install g n align planes).planes = planes := rfl
@[simp] theorem State.install_run (s : State) (g : Layout) (n : BitVec 16) (align : Bool) (planes : Option Planes) : (s.install g n align planes).run = s.run := rfl
@[simp] theorem State.install_src (s : State) (g : Layout) (n : BitVec 16) (align : Bool) (planes : Option Planes) : (s.install g n align planes).src = s.src := rfl
@[simp] theorem State.install_dst (s : State) (g : Layout) (n : BitVec 16) (align : Bool) (planes : Option Planes) : (s.install g n align planes).dst = s.dst := rfl
@[simp] theorem State.install_overlap (s : State) (g : Layout) (n : BitVec 16) (align : Bool) (planes : Option Planes) : (s.install g n align planes).overlap = s.overlap := rfl
@[simp] theorem State.install_short (s : State) (g : Layout) (n : BitVec 16) (align : Bool) (planes : Option Planes) : (s.install g n align planes).short = s.short := rfl
@[simp] theorem State.install_inbox (s : State) (g : Layout) (n : BitVec 16) (align : Bool) (planes : Option Planes) : (s.install g n align planes).inbox = s.inbox := rfl
@[simp] theorem State.install_response (s : State) (g : Layout) (n : BitVec 16) (align : Bool) (planes : Option Planes) : (s.install g n align planes).response = s.response := rfl
@[simp] theorem State.install_draws (s : State) (g : Layout) (n : BitVec 16) (align : Bool) (planes : Option Planes) : (s.install g n align planes).draws = s.draws := rfl

/-! ## `State.load` -/

@[simp] theorem State.load_cfg (s : State) (r : Request) (i : Instr) (rest : List HostEvent) : (s.load r i rest).cfg = s.cfg := rfl
@[simp] theorem State.load_lc (s : State) (r : Request) (i : Instr) (rest : List HostEvent) : (s.load r i rest).lc = s.lc := rfl
@[simp] theorem State.load_mode (s : State) (r : Request) (i : Instr) (rest : List HostEvent) : (s.load r i rest).mode = s.mode := rfl
@[simp] theorem State.load_n (s : State) (r : Request) (i : Instr) (rest : List HostEvent) : (s.load r i rest).n = s.n := rfl
@[simp] theorem State.load_align (s : State) (r : Request) (i : Instr) (rest : List HostEvent) : (s.load r i rest).align = s.align := rfl
@[simp] theorem State.load_bpl (s : State) (r : Request) (i : Instr) (rest : List HostEvent) : (s.load r i rest).bpl = s.bpl := rfl
@[simp] theorem State.load_maxbuf (s : State) (r : Request) (i : Instr) (rest : List HostEvent) : (s.load r i rest).maxbuf = s.maxbuf := rfl
@[simp] theorem State.load_rf (s : State) (r : Request) (i : Instr) (rest : List HostEvent) : (s.load r i rest).rf = s.rf := rfl
@[simp] theorem State.load_gf (s : State) (r : Request) (i : Instr) (rest : List HostEvent) : (s.load r i rest).gf = s.gf := rfl
@[simp] theorem State.load_planes (s : State) (r : Request) (i : Instr) (rest : List HostEvent) : (s.load r i rest).planes = s.planes := rfl
@[simp] theorem State.load_run (s : State) (r : Request) (i : Instr) (rest : List HostEvent) : (s.load r i rest).run = s.run := rfl
@[simp] theorem State.load_src (s : State) (r : Request) (i : Instr) (rest : List HostEvent) : (s.load r i rest).src = r.srcFor i := rfl
@[simp] theorem State.load_dst (s : State) (r : Request) (i : Instr) (rest : List HostEvent) : (s.load r i rest).dst = r.dstFor i := rfl
@[simp] theorem State.load_overlap (s : State) (r : Request) (i : Instr) (rest : List HostEvent) : (s.load r i rest).overlap = r.overlap := rfl
@[simp] theorem State.load_short (s : State) (r : Request) (i : Instr) (rest : List HostEvent) : (s.load r i rest).short = r.shortFor i := rfl
@[simp] theorem State.load_inbox (s : State) (r : Request) (i : Instr) (rest : List HostEvent) : (s.load r i rest).inbox = rest := rfl
@[simp] theorem State.load_response (s : State) (r : Request) (i : Instr) (rest : List HostEvent) : (s.load r i rest).response = s.response := rfl
@[simp] theorem State.load_draws (s : State) (r : Request) (i : Instr) (rest : List HostEvent) : (s.load r i rest).draws = s.draws := rfl

/-! ## `State.hardReset` -/

@[simp] theorem State.hardReset_cfg (s : State) : (s.hardReset).cfg = s.cfg := rfl
@[simp] theorem State.hardReset_lc (s : State) : (s.hardReset).lc = .unopened := rfl
@[simp] theorem State.hardReset_mode (s : State) : (s.hardReset).mode = .mono1 := rfl
@[simp] theorem State.hardReset_n (s : State) : (s.hardReset).n = 0#16 := rfl
@[simp] theorem State.hardReset_align (s : State) : (s.hardReset).align = false := rfl
@[simp] theorem State.hardReset_bpl (s : State) : (s.hardReset).bpl = 0#32 := rfl
@[simp] theorem State.hardReset_maxbuf (s : State) : (s.hardReset).maxbuf = 0#32 := rfl
@[simp] theorem State.hardReset_rf (s : State) : (s.hardReset).rf = false := rfl
@[simp] theorem State.hardReset_gf (s : State) : (s.hardReset).gf = false := rfl
@[simp] theorem State.hardReset_planes (s : State) : (s.hardReset).planes = none := rfl
@[simp] theorem State.hardReset_run (s : State) : (s.hardReset).run = none := rfl
@[simp] theorem State.hardReset_src (s : State) : (s.hardReset).src = s.src := rfl
@[simp] theorem State.hardReset_dst (s : State) : (s.hardReset).dst = s.dst := rfl
@[simp] theorem State.hardReset_overlap (s : State) : (s.hardReset).overlap = s.overlap := rfl
@[simp] theorem State.hardReset_short (s : State) : (s.hardReset).short = s.short := rfl
@[simp] theorem State.hardReset_inbox (s : State) : (s.hardReset).inbox = s.inbox := rfl
@[simp] theorem State.hardReset_response (s : State) : (s.hardReset).response = none := rfl
@[simp] theorem State.hardReset_draws (s : State) : (s.hardReset).draws = s.draws := rfl

/-! ## `State.scrambleDst` -/

@[simp] theorem State.scrambleDst_cfg (s : State) (count : Nat) : (s.scrambleDst count).cfg = s.cfg := rfl
@[simp] theorem State.scrambleDst_lc (s : State) (count : Nat) : (s.scrambleDst count).lc = s.lc := rfl
@[simp] theorem State.scrambleDst_mode (s : State) (count : Nat) : (s.scrambleDst count).mode = s.mode := rfl
@[simp] theorem State.scrambleDst_n (s : State) (count : Nat) : (s.scrambleDst count).n = s.n := rfl
@[simp] theorem State.scrambleDst_align (s : State) (count : Nat) : (s.scrambleDst count).align = s.align := rfl
@[simp] theorem State.scrambleDst_bpl (s : State) (count : Nat) : (s.scrambleDst count).bpl = s.bpl := rfl
@[simp] theorem State.scrambleDst_maxbuf (s : State) (count : Nat) : (s.scrambleDst count).maxbuf = s.maxbuf := rfl
@[simp] theorem State.scrambleDst_rf (s : State) (count : Nat) : (s.scrambleDst count).rf = s.rf := rfl
@[simp] theorem State.scrambleDst_gf (s : State) (count : Nat) : (s.scrambleDst count).gf = s.gf := rfl
@[simp] theorem State.scrambleDst_planes (s : State) (count : Nat) : (s.scrambleDst count).planes = s.planes := rfl
@[simp] theorem State.scrambleDst_run (s : State) (count : Nat) : (s.scrambleDst count).run = s.run := rfl
@[simp] theorem State.scrambleDst_src (s : State) (count : Nat) : (s.scrambleDst count).src = s.src := rfl
@[simp] theorem State.scrambleDst_dst (s : State) (count : Nat) : (s.scrambleDst count).dst = s.dst.writeBytes 0 (freeBytes s.draws count) := rfl
@[simp] theorem State.scrambleDst_overlap (s : State) (count : Nat) : (s.scrambleDst count).overlap = s.overlap := rfl
@[simp] theorem State.scrambleDst_short (s : State) (count : Nat) : (s.scrambleDst count).short = s.short := rfl
@[simp] theorem State.scrambleDst_inbox (s : State) (count : Nat) : (s.scrambleDst count).inbox = s.inbox := rfl
@[simp] theorem State.scrambleDst_response (s : State) (count : Nat) : (s.scrambleDst count).response = s.response := rfl
@[simp] theorem State.scrambleDst_draws (s : State) (count : Nat) : (s.scrambleDst count).draws = s.draws + count := rfl

/-! ## The row flags -/

@[simp] theorem State.markRed_eq (s : State) : s.markRed = s.setFlags true s.gf := rfl
@[simp] theorem State.markGreen_eq (s : State) : s.markGreen = s.setFlags s.rf true := rfl
@[simp] theorem State.clearRow_eq (s : State) : s.clearRow = s.setFlags false false := rfl

/-! ## One plane of the three -/

@[simp] theorem Planes.get_set_self (ps : Planes) (p : Plane) (m : Memory) : (ps.set p m).get p = m := by
  cases p <;> rfl

theorem Planes.get_set_other (ps : Planes) {p q : Plane} (m : Memory) (h : q ≠ p) :
    (ps.set p m).get q = ps.get q := by
  cases p <;> cases q <;> first | rfl | exact absurd rfl h

end Sys2Proof.Machine
end

