-- ==== Sys2Proof/Laws/Ops.lean ====
section
/-! SUPPORT. What each shared operation can do, said once: the structural checks of a SUBMIT, its routing, the sinks,
the plane assembler and the tokens. -/

namespace Sys2Proof.Machine

/-! ## The host's duties about windows (R64, R65) -/

theorem unfit_eq_none {s : State} {srcp dstp : Bool} {len cap : Word} :
    s.unfit srcp dstp len cap = none ↔ s.dutiesKept srcp dstp len cap := by
  unfold State.unfit
  split
  · exact ⟨fun _ => ‹_›, fun _ => rfl⟩
  · split <;> simp only [reduceCtorEq, false_iff] <;> assumption

theorem dutiesKept_present {s : State} {len cap : Word} : s.dutiesKept true true len cap ↔ s.windowsOk len cap := by
  simp [State.dutiesKept]

/-- On windows that keep the duties nothing is refused. -/
theorem onWindows_kept {s : State} {srcp dstp : Bool} {len cap : Word} (h : s.dutiesKept srcp dstp len cap) (x : Result) :
    s.onWindows srcp dstp len cap x = x := by
  rw [State.onWindows, unfit_eq_none.2 h]

theorem onWindows_ok {s : State} {len cap : Word} (h : s.windowsOk len cap) (x : Result) :
    s.onWindows true true len cap x = x := onWindows_kept (dutiesKept_present.2 h) x

theorem onWindows_overlap {s : State} (h : s.overlap = true) (len cap : Word) (x : Result) :
    s.onWindows true true len cap x = .refused .overlappingWindows := by
  have hn : ¬ s.dutiesKept true true len cap := fun hd => by rw [hd.1 rfl rfl] at h; cases h
  rw [State.onWindows, State.unfit, if_neg hn, if_pos (by simp [h])]

theorem onWindows_short {s : State} {srcp dstp : Bool} {len cap : Word} (h : srcp = true → dstp = true → s.overlap = false)
    (hs : s.short = true ∨ (srcp = true ∧ s.src.size < len.toNat) ∨ (dstp = true ∧ s.dst.size < cap.toNat)) (x : Result) :
    s.onWindows srcp dstp len cap x = .refused .shortWindow := by
  have hn : ¬ s.dutiesKept srcp dstp len cap := by
    rintro ⟨-, hk, h1, h2⟩
    rcases hs with hs | ⟨hp, hs⟩ | ⟨hp, hs⟩
    · rw [hk] at hs; cases hs
    · exact absurd (h1 hp) (by omega)
    · exact absurd (h2 hp) (by omega)
  have ho : ¬ (srcp && dstp && s.overlap) = true := by
    simp only [Bool.and_eq_true, not_and, Bool.not_eq_true]
    exact fun hp => h hp.1 hp.2
  rw [State.onWindows, State.unfit, if_neg hn, if_neg ho]

/-- Where a next state is answered the duties are kept. -/
theorem onWindows_next {s t : State} {srcp dstp : Bool} {len cap : Word} {x : Result}
    (h : s.onWindows srcp dstp len cap x = .next t) : s.dutiesKept srcp dstp len cap ∧ x = .next t := by
  unfold State.onWindows at h
  cases hu : s.unfit srcp dstp len cap with
  | none => rw [hu] at h; exact ⟨unfit_eq_none.1 hu, h⟩
  | some r => rw [hu] at h; cases h

/-! ## The checks that every SUBMIT shares -/

/-- A SUBMIT without an open session or with a window absent is answered FAULT and does nothing else (R201), where the
host has kept its duties. -/
theorem submit_fault {srcp dstp : Bool} {len cap : Word} {body : State → Result} {s : State}
    (h : s.lc ≠ .opened ∨ srcp = false ∨ dstp = false) :
    submit srcp dstp len cap body s = s.onWindows srcp dstp len cap (.next (s.respond .fault 0#32 0#32)) := by
  unfold submit
  by_cases hl : s.lc = .opened
  · rcases h with h | rfl | rfl
    · exact absurd hl h
    · simp [hl]
    · simp [hl]
  · simp [hl]

/-- A SUBMIT that passes its structural checks runs its own part on windows that keep the host's duties. -/
theorem submit_open {len cap : Word} {body : State → Result} {s : State} (hl : s.lc = .opened) :
    submit true true len cap body s = s.onWindows true true len cap (body s) := by
  simp [submit, hl]

/-- A SUBMIT that passes all its checks runs its own part. -/
theorem submit_body {len cap : Word} {body : State → Result} {s : State} (hl : s.lc = .opened)
    (ho : s.windowsOk len cap) : submit true true len cap body s = body s := by
  rw [submit_open hl, onWindows_ok ho]

/-- Everything that `submit` can do when it answers a next state: the duties are kept, and it is a FAULT or its own part. -/
theorem submit_next {srcp dstp : Bool} {len cap : Word} {body : State → Result} {s t : State}
    (h : submit srcp dstp len cap body s = .next t) :
    s.dutiesKept srcp dstp len cap ∧
    ((t = s.respond .fault 0#32 0#32 ∧ (s.lc ≠ .opened ∨ srcp = false ∨ dstp = false)) ∨
    (s.lc = .opened ∧ srcp = true ∧ dstp = true ∧ s.windowsOk len cap ∧ body s = .next t)) := by
  refine ⟨(onWindows_next h).1, ?_⟩
  by_cases hf : s.lc ≠ .opened ∨ srcp = false ∨ dstp = false
  · rw [submit_fault hf] at h
    exact .inl ⟨(Host.Outcome.next.inj (onWindows_next h).2).symm, hf⟩
  · simp only [not_or, ne_eq, Bool.not_eq_false] at hf
    obtain ⟨hl, rfl, rfl⟩ := hf
    have hl : s.lc = .opened := Classical.byContradiction hl
    rw [submit_open hl] at h
    exact .inr ⟨hl, rfl, rfl, dutiesKept_present.1 (onWindows_next h).1, (onWindows_next h).2⟩

/-! ## Routing and sinks -/

theorem deliver_gray {s : State} (h : s.mode = .gray8) (seq : List Byte) (tag : PlaneTag) (cap : Word) :
    deliver seq tag cap s = .next (emitLine seq s) := by simp [deliver, byteSink, h]

theorem deliver_mono {s : State} (h : s.mode = .mono1) (seq : List Byte) (tag : PlaneTag) (cap : Word) :
    deliver seq tag cap s = .next (emitLine (quantize seq) s) := by simp [deliver, monoSink, h]

theorem deliver_rgb {s : State} (h : s.mode = .rgb24) (seq : List Byte) (tag : PlaneTag) (cap : Word) :
    deliver seq tag cap s = assemble tag seq cap s := by simp [deliver, h]

theorem deliverFill_line {s : State} (h : s.mode ≠ .rgb24) (tag : PlaneTag) (cap : Word) :
    deliverFill tag cap s = .next (emitLine (whiteSamples cap.toNat) s) := by
  cases hm : s.mode
  · simp [deliverFill, fillDst, hm]
  · simp [deliverFill, fillDst, hm]
  · exact absurd hm h

theorem deliverFill_rgb {s : State} (h : s.mode = .rgb24) (tag : PlaneTag) (cap : Word) :
    deliverFill tag cap s = assemble tag (whiteSamples s.n.toNat) cap s := by simp [deliverFill, h]

@[simp] theorem emitLine_dst (bytes : List Byte) (s : State) : (emitLine bytes s).dst = s.dst.writeBytes 0 bytes := rfl
@[simp] theorem emitLine_response (bytes : List Byte) (s : State) :
    (emitLine bytes s).response = some { status := .emitted, word1 := BitVec.ofNat 32 bytes.length, word2 := 0#32 } := rfl

/-- An emitted line changes the destination window and the answer, nothing else. -/
theorem emitLine_frame (bytes : List Byte) (s : State) :
    { emitLine bytes s with dst := s.dst, response := s.response } = s := rfl

/-- Everything that the plane assembler can do (R150). -/
theorem assemble_next {tag : PlaneTag} {seq : List Byte} {cap : Word} {s t : State}
    (h : assemble tag seq cap s = .next t) :
    (tag = .untagged ∧ t = s.respond .buffered 0#32 0#32) ∨
    ∃ ps, s.planes = some ps ∧
      ((tag = .red ∧ t = assembleRed seq ps s) ∨ (tag = .green ∧ t = assembleGreen seq ps s) ∨
        (tag = .blue ∧ t = assembleBlue seq cap ps s)) := by
  unfold assemble at h
  split at h <;> first
    | exact .inl ⟨rfl, (Host.Outcome.next.inj h).symm⟩
    | exact .inr ⟨_, ‹_›, .inl ⟨rfl, (Host.Outcome.next.inj h).symm⟩⟩
    | exact .inr ⟨_, ‹_›, .inr (.inl ⟨rfl, (Host.Outcome.next.inj h).symm⟩)⟩
    | exact .inr ⟨_, ‹_›, .inr (.inr ⟨rfl, (Host.Outcome.next.inj h).symm⟩)⟩
    | cases h

/-- While the planes are allocated the plane assembler answers (R150). -/
theorem assemble_allocated {s : State} {ps : Planes} (h : s.planes = some ps) (tag : PlaneTag) (seq : List Byte)
    (cap : Word) :
    assemble tag seq cap s = .next (match tag with
      | .untagged => s.respond .buffered 0#32 0#32
      | .red => assembleRed seq ps s
      | .green => assembleGreen seq ps s
      | .blue => assembleBlue seq cap ps s) := by
  cases tag <;> simp [assemble, h]

/-- A Blue record that completes its row (R153). -/
theorem assembleBlue_complete {s : State} (hr : s.rf = true) (hg : s.gf = true) (seq : List Byte) (cap : Word)
    (ps : Planes) :
    assembleBlue seq cap ps s =
      emitLine (interleave (planeSink .blue seq ps) 0 (rowPixels s.n cap))
        ((s.setPlanes (planeSink .blue seq ps)).setFlags false false) := by
  simp [assembleBlue, State.rowState, hr, hg]

/-- A Blue record of a partial row (R154). -/
theorem assembleBlue_partial {s : State} (h : s.rf = false ∨ s.gf = false) (seq : List Byte) (cap : Word)
    (ps : Planes) :
    assembleBlue seq cap ps s =
      ((s.setPlanes (planeSink .blue seq ps)).setFlags false false).respond .buffered 0#32 0#32 := by
  unfold assembleBlue State.rowState
  cases hr : s.rf <;> cases hg : s.gf <;> simp_all

/-- A record's bytes in its plane; the others keep their values (R115). -/
theorem planeSink_read (p : Plane) (seq : List Byte) (ps : Planes) (a : Nat) :
    ((planeSink p seq ps).get p).read a = (seq[a]?).getD ((ps.get p).read a) := by
  simp [planeSink, Memory.read_writeBytes_zero]

theorem planeSink_other {p q : Plane} (h : q ≠ p) (seq : List Byte) (ps : Planes) :
    (planeSink p seq ps).get q = ps.get q := Planes.get_set_other ps _ h

@[simp] theorem length_interleave (ps : Planes) (i count : Nat) : (interleave ps i count).length = 3 * count := by
  induction count generalizing i with
  | zero => rfl
  | succ k ih => simp only [interleave, List.length_cons, ih]; omega

/-- The interleave order (R156). -/
theorem interleave_getElem? (ps : Planes) (start count i : Nat) (h : i < count) :
    (interleave ps start count)[3 * i]? = some (ps.red.read (start + i)) ∧
    (interleave ps start count)[3 * i + 1]? = some (ps.green.read (start + i)) ∧
    (interleave ps start count)[3 * i + 2]? = some (ps.blue.read (start + i)) := by
  induction count generalizing start i with
  | zero => omega
  | succ k ih =>
    cases i with
    | zero => simp [interleave]
    | succ j =>
      have := ih (start + 1) j (by omega)
      rw [show start + 1 + j = start + (j + 1) by omega] at this
      rw [show 3 * (j + 1) = 3 * j + 1 + 1 + 1 by omega]
      simpa [interleave] using this

/-! ## Lengths -/

@[simp] theorem length_rawSamples (src : Window) (len : Word) (k : Nat) :
    (rawSamples src len k).length = min len.toNat k := by simp [rawSamples]

theorem rawSamples_eq_take (src : Window) (len : Word) (k : Nat) :
    rawSamples src len k = (src.readBytes 0 len.toNat).take k := by
  rw [rawSamples, Window.take_readBytes]

@[simp] theorem length_whiteSamples (k : Nat) : (whiteSamples k).length = k := by simp [whiteSamples]

/-! ## The PackBits tokens -/

theorem onRun_some {f : PbRun → PbRun} {s : State} {u : PbRun} (h : s.run = some u)
    (ho : s.windowsOk u.srcLen u.dstCap) : onRun f s = .next (s.setRun (f u)) := by
  simp only [onRun, h, onWindows_ok ho]

theorem onRun_none {f : PbRun → PbRun} {s : State} (h : s.run = none) :
    onRun f s = .refused .tokenOutsidePackBits := by simp [onRun, h]

/-- Everything that a token can do. -/
theorem onRun_next {f : PbRun → PbRun} {s t : State} (h : onRun f s = .next t) :
    ∃ u, s.run = some u ∧ s.windowsOk u.srcLen u.dstCap ∧ t = s.setRun (f u) := by
  cases hr : s.run with
  | none => rw [onRun_none hr] at h; cases h
  | some u =>
    simp only [onRun, hr] at h
    obtain ⟨ho, h⟩ := onWindows_next h
    exact ⟨u, rfl, dutiesKept_present.1 ho, (Host.Outcome.next.inj h).symm⟩

/-- The tokens keep the operands of their SUBMIT and its capacity. -/
theorem PbRun.lit_operands (u : PbRun) (src : Window) (c : BitVec 7) :
    (u.lit src c).tag = u.tag ∧ (u.lit src c).srcLen = u.srcLen ∧ (u.lit src c).dstCap = u.dstCap ∧
      (u.lit src c).cap = u.cap := ⟨rfl, rfl, rfl, rfl⟩

theorem PbRun.rep_operands (u : PbRun) (src : Window) (c : BitVec 7) :
    (u.rep src c).tag = u.tag ∧ (u.rep src c).srcLen = u.srcLen ∧ (u.rep src c).dstCap = u.dstCap ∧
      (u.rep src c).cap = u.cap := ⟨rfl, rfl, rfl, rfl⟩

theorem PbRun.nop_operands (u : PbRun) :
    u.nop.tag = u.tag ∧ u.nop.srcLen = u.srcLen ∧ u.nop.dstCap = u.dstCap ∧ u.nop.cap = u.cap := ⟨rfl, rfl, rfl, rfl⟩

/-- No token produces more samples than the capacity (R124). -/
theorem PbRun.lit_outCnt (u : PbRun) (src : Window) (c : BitVec 7) : (u.lit src c).outCnt ≤ u.cap :=
  List.length_take_le _ _

theorem PbRun.rep_outCnt (u : PbRun) (src : Window) (c : BitVec 7) : (u.rep src c).outCnt ≤ u.cap :=
  List.length_take_le _ _

/-- What one token does: one of the three. -/
theorem PbRun.token_cases (u : PbRun) (src : Window) :
    (∃ c, decodeControl (u.fetch src) = .pbLit c ∧ u.token src = u.lit src c) ∨
    (decodeControl (u.fetch src) = .pbNop ∧ u.token src = u.nop) ∨
    (∃ c, decodeControl (u.fetch src) = .pbRep c ∧ u.token src = u.rep src c) := by
  unfold PbRun.token decodeControl
  by_cases h : u.fetch src ≤ 0x7F#8
  · exact .inl ⟨(u.fetch src).extractLsb' 0 7, by simp [h], by simp [h]⟩
  · by_cases h' : u.fetch src = 0x80#8
    · exact .inr (.inl ⟨by simp [h'], by simp [h']⟩)
    · exact .inr (.inr ⟨(u.fetch src).extractLsb' 0 7, by simp [h, h'], by simp [h, h']⟩)

/-- A token keeps the operands and advances `in_pos` (R124: by at least 1). -/
theorem PbRun.token_frame (u : PbRun) (src : Window) :
    (u.token src).tag = u.tag ∧ (u.token src).srcLen = u.srcLen ∧ (u.token src).dstCap = u.dstCap ∧
      (u.token src).cap = u.cap ∧ u.inPos < (u.token src).inPos ∧
      (u.outCnt ≤ u.cap → (u.token src).outCnt ≤ u.cap) := by
  rcases u.token_cases src with ⟨c, -, e⟩ | ⟨-, e⟩ | ⟨c, -, e⟩ <;> rw [e]
  · exact ⟨rfl, rfl, rfl, rfl, by show _ < _ + 1 + _; omega, fun _ => u.lit_outCnt src c⟩
  · exact ⟨rfl, rfl, rfl, rfl, Nat.lt_succ_self _, id⟩
  · exact ⟨rfl, rfl, rfl, rfl, by show _ < _ + 1 + 1; omega, fun _ => u.rep_outCnt src c⟩

/-- The step of a token at the control byte is the token machine's turn: one meaning, run from two places. -/
theorem exec_decodeControl {s : State} {u : PbRun} (h : s.run = some u) :
    exec (decodeControl (u.fetch s.src)) s =
      s.onWindows true true u.srcLen u.dstCap (.next (s.setRun (u.token s.src))) := by
  rcases u.token_cases s.src with ⟨c, d, e⟩ | ⟨d, e⟩ | ⟨c, d, e⟩ <;> rw [d, e]
  · simp only [exec, execPbLit, onRun, h]
  · simp only [exec, execPbNop, onRun, h]
  · simp only [exec, execPbRep, onRun, h]

/-- A drained run keeps its operands and stays within its capacity. -/
theorem PbRun.drain_frame (fuel : Nat) (src : Window) (u : PbRun) :
    (PbRun.drain fuel src u).tag = u.tag ∧ (PbRun.drain fuel src u).srcLen = u.srcLen ∧
      (PbRun.drain fuel src u).dstCap = u.dstCap ∧ (PbRun.drain fuel src u).cap = u.cap ∧
      (u.outCnt ≤ u.cap → (PbRun.drain fuel src u).outCnt ≤ u.cap) := by
  induction fuel generalizing u with
  | zero => exact ⟨rfl, rfl, rfl, rfl, id⟩
  | succ f ih =>
    rw [PbRun.drain]
    split
    · exact ⟨rfl, rfl, rfl, rfl, id⟩
    · obtain ⟨h1, h2, h3, h4, -, h6⟩ := u.token_frame src
      obtain ⟨i1, i2, i3, i4, i5⟩ := ih (u.token src)
      exact ⟨i1.trans h1, i2.trans h2, i3.trans h3, i4.trans h4, fun h => by
        rw [h4] at i5; exact i5 (h6 h)⟩

/-- A PackBits record decodes to no more samples than the capacity (R110). -/
theorem length_packBitsSamples_le (src : Window) (len : Word) (k : Nat) : (packBitsSamples src len k).length ≤ k :=
  (PbRun.drain_frame len.toNat src (PbRun.start .untagged len 0#32 k)).2.2.2.2 (Nat.zero_le _)

end Sys2Proof.Machine
end

