-- ==== Sys2Proof/Laws/PerInstr.lean ====
section
/-! SUPPORT. Statements about each instruction as syntax, one lemma per constructor. -/

namespace Sys2Proof.Laws.EncodedLength

/-- How many units an encoding has: words of a request, or the one control byte of a token. -/
def units (e : Encoding) : Nat :=
  match e with
  | .request words => words.length
  | .control _ => 1

/-- A SUBMIT has a header and two operand words, every other instruction one unit (R70, R84). -/
def Statement (i : Instr) : Prop :=
  units (encode i) = match Machine.submitOperands i with
    | some _ => 3
    | none => 1

theorem openSession (mode : ModeField) (n : BitVec 16) (align : Bool) : Statement (.openSession mode n align) := rfl

theorem submitRaw (tag : PlaneTag) (srcp dstp : Bool) (len cap : Word) :
    Statement (.submitRaw tag srcp dstp len cap) := rfl

theorem submitFill (tag : PlaneTag) (srcp dstp : Bool) (len cap : Word) :
    Statement (.submitFill tag srcp dstp len cap) := rfl

theorem submitPackBits (tag : PlaneTag) (srcp dstp : Bool) (len cap : Word) :
    Statement (.submitPackBits tag srcp dstp len cap) := rfl

theorem submitUnknown (comp : Byte) (tag : PlaneTag) (srcp dstp : Bool) (len cap : Word) :
    Statement (.submitUnknown comp tag srcp dstp len cap) := rfl

theorem close : Statement .close := rfl

theorem illegal (header : Word) : Statement (.illegal header) := rfl

theorem pbNop : Statement .pbNop := rfl

theorem pbLit (count : BitVec 7) : Statement (.pbLit count) := rfl

theorem pbRep (low : BitVec 7) : Statement (.pbRep low) := rfl

end Sys2Proof.Laws.EncodedLength
end

