-- ==== Sys2Proof/Laws/Quantizer.lean ====
section
/-! SUPPORT. The quantizer's registers while it runs (42_bit_quantizer.md R141 to R144). -/

namespace Sys2Proof.Machine

/-- One more sample is one more push. -/
theorem Quantizer.after_snoc (seq : List Byte) (x : Byte) :
    Quantizer.after (seq ++ [x]) = (Quantizer.after seq).push x := by
  simp [Quantizer.after]

/-- A sample sets its own bit of the partial byte, counted from the most significant, when it is white, and no
other. -/
theorem Quantizer.push_bit (acc : Byte) (cnt : BitVec 3) (bit : Bool) (b : Nat) (hb : b < 8) :
    (if bit then acc ||| (0x80#8 >>> cnt.toNat) else acc).getMsbD b = true ↔
      acc.getMsbD b = true ∨ (b = cnt.toNat ∧ bit = true) := by
  cases bit
  · simp
  · simp only [if_true, and_true]
    rw [BitVec.getMsbD_or, Bool.or_eq_true]
    have one : ∀ cnt : BitVec 3, ∀ b : Fin 8, (0x80#8 >>> cnt.toNat).getMsbD b.1 = true ↔ b.1 = cnt.toNat := by decide
    rw [one cnt ⟨b, hb⟩]

/-- The bit count and the number of full bytes after a push count one sample more. -/
theorem Quantizer.push_count (q : Quantizer) (x : Byte) :
    8 * (q.push x).packed.length + (q.push x).accCnt.toNat = 8 * q.packed.length + q.accCnt.toNat + 1 := by
  unfold Quantizer.push
  by_cases h : q.accCnt = 7#3
  · simp [h]; omega
  · have h7 : q.accCnt.toNat ≠ 7 := fun h' => h (BitVec.eq_of_toNat_eq h')
    have := q.accCnt.isLt
    simp only [h, if_false, BitVec.toNat_add, BitVec.toNat_ofNat]
    omega

/-- The bit count and the number of full bytes count the samples. -/
theorem Quantizer.count_after (seq : List Byte) :
    8 * (Quantizer.after seq).packed.length + (Quantizer.after seq).accCnt.toNat = seq.length := by
  suffices H : ∀ q : Quantizer, 8 * (seq.foldl Quantizer.push q).packed.length +
      (seq.foldl Quantizer.push q).accCnt.toNat = 8 * q.packed.length + q.accCnt.toNat + seq.length by
    simpa [Quantizer.after, Quantizer.start] using H Quantizer.start
  induction seq with
  | nil => intro q; rfl
  | cons x rest ih =>
    intro q
    rw [List.foldl_cons, ih, Quantizer.push_count, List.length_cons]
    omega

end Sys2Proof.Machine
end

