-- ==== Sys2Proof/Laws/Session.lean ====
section
/-! SUPPORT. Everything that an OPEN can do, said once (44_session_control.md R172). -/

namespace Sys2Proof.Machine

/-- An OPEN answers a next state, and it is one of these four. -/
theorem open_next {mode : ModeField} {n : BitVec 16} {align : Bool} {s t : State}
    (h : execOpen mode n align s = .next t) :
    (n = 0#16 ∧ t = s.clearSession.respond .invalidConfig 0#32 0#32) ∨
    (mode = .rgb24 ∧ s.cfg.planeDepth < n.toNat ∧ t = s.clearSession.respond .allocationFailure 0#32 0#32) ∨
    ∃ g, geometry mode n align = some g ∧
      ((mode = .rgb24 ∧ n.toNat ≤ s.cfg.planeDepth ∧
          t = (s.install g n align (some Planes.zeroed)).respond .ok g.bpl g.maxbuf) ∨
        (mode ≠ .rgb24 ∧ t = (s.install g n align none).respond .ok g.bpl g.maxbuf)) := by
  unfold execOpen at h
  cases hg : geometry mode n align with
  | none =>
    rw [hg] at h
    exact .inl ⟨geometry_none hg, (Host.Outcome.next.inj h).symm⟩
  | some g =>
    rw [hg] at h
    obtain ⟨-, -, h3, -, -⟩ := geometry_some hg
    simp only [h3] at h
    cases mode <;> simp only [effectiveMode] at h
    · exact .inr (.inr ⟨g, rfl, .inr ⟨by simp, (Host.Outcome.next.inj h).symm⟩⟩)
    · exact .inr (.inr ⟨g, rfl, .inr ⟨by simp, (Host.Outcome.next.inj h).symm⟩⟩)
    · split at h
      · exact .inr (.inl ⟨rfl, ‹_›, (Host.Outcome.next.inj h).symm⟩)
      · exact .inr (.inr ⟨g, rfl, .inl ⟨rfl, by omega, (Host.Outcome.next.inj h).symm⟩⟩)
    · exact .inr (.inr ⟨g, rfl, .inr ⟨by simp, (Host.Outcome.next.inj h).symm⟩⟩)

/-- An OPEN always answers. -/
theorem open_total (mode : ModeField) (n : BitVec 16) (align : Bool) (s : State) :
    ∃ t, execOpen mode n align s = .next t := by
  unfold execOpen
  split
  · exact ⟨_, rfl⟩
  · split
    · split <;> exact ⟨_, rfl⟩
    · exact ⟨_, rfl⟩
    · exact ⟨_, rfl⟩

end Sys2Proof.Machine
end

