-- ==== Sys2Proof/Laws/Step.lean ====
section
/-! SUPPORT. What a step can do, said once: the step of a PackBits SUBMIT in progress, the step of each host event, and
every way in which a step answers a next state. -/

namespace Sys2Proof.Machine

/-- Before a token, one step is one turn of the token machine (R120). -/
theorem step_token {s : State} {u : PbRun} (h : s.run = some u) (he : u.exhausted = false) :
    step s = s.onWindows true true u.srcLen u.dstCap (.next (s.setRun (u.token s.src))) := by
  simp only [step, h, he, State.nextToken, decode, Bool.false_eq_true, if_false]
  exact exec_decodeControl h

/-- With its tokens exhausted the SUBMIT delivers its samples (R124). -/
theorem step_finish {s : State} {u : PbRun} (h : s.run = some u) (he : u.exhausted = true) :
    step s = s.onWindows true true u.srcLen u.dstCap (deliver u.out u.tag u.dstCap s.endRun) := by
  simp only [step, h, he, if_true, finishPackBits]

/-- A request is decoded and run (R170). -/
theorem step_request {s : State} {r : Request} {rest : List HostEvent} {i : Instr} (hr : s.run = none)
    (hb : s.inbox = .request r :: rest) (hd : decodeRequest r.words = .ok i) : step s = exec i (s.load r i rest) := by
  simp only [step, hr, hb, Request.encoding, decode, hd]

/-- A request interrupted by a reset is abandoned (R230). -/
theorem step_resetDuring {s : State} {r : Request} {rest : List HostEvent} {i : Instr} (hr : s.run = none)
    (hb : s.inbox = .resetDuring r :: rest) (hd : decodeRequest r.words = .ok i) :
    step s = (s.load r i rest).abandon i := by
  simp only [step, hr, hb, Request.encoding, decode, hd]

/-- Everything that an abandoned operation can leave (R230): the reset state, with free destination bytes where it is a
SUBMIT that has passed its checks and reaches the destination. -/
theorem abandon_next {s t : State} {i : Instr} (h : s.abandon i = .next t) :
    t = s.hardReset ∨ ∃ o, submitOperands i = some o ∧ s.lc = .opened ∧ s.windowsOk o.len o.cap ∧
      s.reachesDst o.tag = true ∧ t = s.hardReset.scrambleDst o.cap.toNat := by
  unfold State.abandon at h
  split at h
  · exact .inl (Host.Outcome.next.inj h).symm
  · rename_i o ho
    obtain ⟨hw, h⟩ := onWindows_next h
    have h := Host.Outcome.next.inj h
    split at h
    · rename_i hc
      rw [hc.2.1, hc.2.2.1] at hw
      exact .inr ⟨o, ho, hc.1, dutiesKept_present.1 hw, hc.2.2.2, h.symm⟩
    · exact .inl h.symm

/-- Everything that a step can do when it answers a next state. -/
theorem step_next {s t : State} (h : step s = .next t) :
    (∃ u, s.run = some u ∧ s.windowsOk u.srcLen u.dstCap ∧ u.exhausted = true ∧
      deliver u.out u.tag u.dstCap s.endRun = .next t) ∨
    (∃ u, s.run = some u ∧ s.windowsOk u.srcLen u.dstCap ∧ u.exhausted = false ∧ t = s.setRun (u.token s.src)) ∨
    (s.run = none ∧ s.inbox = [] ∧ t = s) ∨
    (∃ r rest i, s.run = none ∧ s.inbox = .request r :: rest ∧ decodeRequest r.words = .ok i ∧
      exec i (s.load r i rest) = .next t) ∨
    (∃ rest, s.run = none ∧ s.inbox = .reset :: rest ∧ t = State.hardReset { s with inbox := rest }) ∨
    (∃ r rest i, s.run = none ∧ s.inbox = .resetDuring r :: rest ∧ decodeRequest r.words = .ok i ∧
      (s.load r i rest).abandon i = .next t) := by
  cases hr : s.run with
  | some u =>
    cases he : u.exhausted
    · rw [step_token hr he] at h
      exact .inr (.inl ⟨u, rfl, dutiesKept_present.1 (onWindows_next h).1, he, (Host.Outcome.next.inj (onWindows_next h).2).symm⟩)
    · rw [step_finish hr he] at h
      exact .inl ⟨u, rfl, dutiesKept_present.1 (onWindows_next h).1, he, (onWindows_next h).2⟩
  | none =>
    cases hb : s.inbox with
    | nil =>
      simp only [step, hr, hb] at h
      exact .inr (.inr (.inl ⟨rfl, rfl, (Host.Outcome.next.inj h).symm⟩))
    | cons e rest =>
      cases e with
      | request r =>
        simp only [step, hr, hb, Request.encoding, decode] at h
        cases hd : decodeRequest r.words with
        | error e => rw [hd] at h; cases h
        | ok i => rw [hd] at h; exact .inr (.inr (.inr (.inl ⟨r, rest, i, rfl, rfl, hd, h⟩)))
      | reset =>
        simp only [step, hr, hb] at h
        exact .inr (.inr (.inr (.inr (.inl ⟨rest, rfl, rfl, (Host.Outcome.next.inj h).symm⟩))))
      | resetDuring r =>
        simp only [step, hr, hb, Request.encoding, decode] at h
        cases hd : decodeRequest r.words with
        | error e => rw [hd] at h; cases h
        | ok i => rw [hd] at h; exact .inr (.inr (.inr (.inr (.inr ⟨r, rest, i, rfl, rfl, hd, h⟩))))

end Sys2Proof.Machine
end

