-- ==== Sys2Proof/Tests/Slice0.lean ====
section
/-! SUPPORT. Tests: the checks of WellFormed, words written out from the tables of 30_encoding.md, single requests with the
results of 95_test_vectors.md, and for every statement with hypotheses a witness that meets them. -/

namespace Sys2Proof.Tests

open Sys2Proof.Machine Sys2Proof.Claims

/-! ## Helpers -/

/-- Memory with these bytes from offset 0 on. -/
def bytesOf (bs : List Nat) : Memory := Memory.writeBytes [] 0 (bs.map (BitVec.ofNat 8))

/-- A window of exactly these bytes. -/
def win (bs : List Nat) : Window := { size := bs.length, bytes := bytesOf bs }

/-- A window of 16 zeros. -/
def blank : Window := { size := 16, bytes := [] }

/-- An open session, with windows of 16 zeros. -/
def session (mode : ColorMode) (n : Nat) (bpl : Nat) (planes : Option Planes) : State :=
  { State.reset with
    lc := .opened, mode := mode, n := BitVec.ofNat 16 n, bpl := BitVec.ofNat 32 bpl
    maxbuf := BitVec.ofNat 32 (16 * bpl), planes := planes, src := blank, dst := blank }

/-- The session of vector G6. -/
def gray4 : State := session .gray8 4 4 none

/-- The session of vector G3. -/
def mono12 : State := session .mono1 12 2 none

/-- The session of vector G11. -/
def rgb3 : State := session .rgb24 3 9 (some { red := [], green := [], blue := [] })

/-- The session before vector A4: both flags set, the planes 123, 456, 123. -/
def rgbRow : State :=
  { session .rgb24 3 9 (some { red := bytesOf [1, 2, 3], green := bytesOf [4, 5, 6], blue := bytesOf [1, 2, 3] }) with
    rf := true, gf := true }

/-- A closed session. -/
def shut : State := { State.reset with lc := .closed }

/-- The windows of one request. -/
def windows (src dst : List Nat) (s : State) : State := { s with src := win src, dst := win dst }

/-- A request that is the host's next event. -/
def asked (words : List Word) (s : State) : State :=
  { s with inbox := [.request { words := words, src := s.src, dst := s.dst, overlap := s.overlap }] }

/-- The next state, where there is one. -/
def after (r : Result) : Option State :=
  match r with
  | .next t => some t
  | .fault _ => none
  | .refused _ => none

/-- The answer of a next state: STATUS and words 1 and 2. -/
def answerOf (r : Result) : Option (Status × Nat × Nat) :=
  (after r).bind fun t => t.response.map fun a => (a.status, a.word1.toNat, a.word2.toNat)

/-- The refusal, where there is one. -/
def refusalOf (r : Result) : Option Refusal :=
  match r with
  | .next _ => none
  | .fault _ => none
  | .refused x => some x

/-- The first `k` destination bytes of a next state. -/
def dstOf (k : Nat) (r : Result) : Option (List Nat) :=
  (after r).map fun t => (t.dst.readBytes 0 k).map BitVec.toNat

/-- LC/MODE/N/BPL/MAXBUF/RF/GF, as the test vectors write a state. -/
def elementsOf (r : Result) : Option (List Nat) :=
  (after r).map fun t =>
    [t.lc.code.toNat, t.mode.code.toNat, t.n.toNat, t.bpl.toNat, t.maxbuf.toNat, t.rf.toNat, t.gf.toNat]

/-- The three planes' first `k` bytes. -/
def planesOf (k : Nat) (r : Result) : Option (List (List Nat)) :=
  (after r).bind fun t => t.planes.map fun ps =>
    [ps.red, ps.green, ps.blue].map fun m => (m.readBytes 0 k).map BitVec.toNat

/-- A PackBits SUBMIT in progress in a session. -/
def midway (u : PbRun) (s : State) : State := { s with run := some u }

/-- The registers of a PackBits SUBMIT of `len` bytes at byte `pos`, nothing produced, with capacity `k`. -/
def atToken (len : Word) (k pos : Nat) : PbRun :=
  { tag := .untagged, srcLen := len, dstCap := BitVec.ofNat 32 k, cap := k, inPos := pos, ctl := 0#8, out := [] }

/-! ## WellFormed refuses an ill-formed term for each check -/

theorem test_wf_unknown_raw : (Instr.submitUnknown 0x00#8 .untagged true true 0#32 0#32).wellFormed = false := by decide
theorem test_wf_unknown_fill : (Instr.submitUnknown 0x01#8 .untagged true true 0#32 0#32).wellFormed = false := by decide
theorem test_wf_unknown_packBits :
    (Instr.submitUnknown 0x02#8 .untagged true true 0#32 0#32).wellFormed = false := by decide
theorem test_wf_illegal_legal_header : (Instr.illegal 0x00000003#32).wellFormed = false := by decide
theorem test_wf_rep_nop : (Instr.pbRep 0#7).wellFormed = false := by decide

/-! ## Decoding, words written out from R72 to R79 and R84 -/

/-- N = 65535, reserved 0, ALIGN = 1, MODE = 10, OP = 01 (vector G13: 0xFFFF0019). -/
theorem test_decode_open :
    decode (.request [0b1111111111111111_00000000000_1_10_01#32]) = .ok (.openSession .rgb24 65535#16 true) := by decide

/-- COMP = 0x00, DSTP = 1, SRCP = 0, TAG = 10, OP = 10. -/
theorem test_decode_raw :
    decode (.request [0b0000000000000000_00000000_00_1_0_10_10#32, 5#32, 7#32]) =
      .ok (.submitRaw .green false true 5#32 7#32) := by decide

/-- COMP = 0x01, DSTP = 0, SRCP = 1, TAG = 11, OP = 10. -/
theorem test_decode_fill :
    decode (.request [0b0000000000000000_00000001_00_0_1_11_10#32, 5#32, 7#32]) =
      .ok (.submitFill .blue true false 5#32 7#32) := by decide

/-- COMP = 0x02, TAG = 01: 0x00000236 in the decoding table of 95_test_vectors.md. -/
theorem test_decode_packBits :
    decode (.request [0b0000000000000000_00000010_00_1_1_01_10#32, 5#32, 7#32]) =
      .ok (.submitPackBits .red true true 5#32 7#32) := by decide

/-- COMP = 0xFF, TAG = 10: 0x0000FF3A in the decoding table. -/
theorem test_decode_unknown :
    decode (.request [0b0000000000000000_11111111_00_1_1_10_10#32, 5#32, 7#32]) =
      .ok (.submitUnknown 0xFF#8 .green true true 5#32 7#32) := by decide

theorem test_decode_close : decode (.request [0b000000000000000000000000000000_11#32]) = .ok .close := by decide

/-- OP = 00, and CLOSE with a reserved bit, in the decoding table. -/
theorem test_decode_illegal :
    decode (.request [0b00000000000000000000000000000100#32]) = .ok (.illegal 4#32) ∧
    decode (.request [0x80000003#32]) = .ok (.illegal 0x80000003#32) := by decide

theorem test_decode_nop : decode (.control 0b10000000#8) = .ok .pbNop := by decide
theorem test_decode_lit : decode (.control 0b0_0000010#8) = .ok (.pbLit 2#7) := by decide
theorem test_decode_rep : decode (.control 0b1_1111110#8) = .ok (.pbRep 126#7) ∧ repLength 126#7 = 3 := by decide

/-- R70: another number of words is no request. -/
theorem test_decode_word_count :
    decode (.request []) = .error .noHeader ∧ decode (.request [0x32#32, 1#32]) = .error (.operandWords 1) ∧
      decode (.request [3#32, 0#32]) = .error (.operandWords 1) := by decide

/-- The table's numbering: the header in bits 31..0, L in bits 63..32, C in bits 95..64. -/
theorem test_decodeTableWord :
    decodeTableWord 96 (0x00000732 + 3 * 2 ^ 32 + 2 * 2 ^ 64) =
      some (.submitUnknown 7#8 .untagged true true 3#32 2#32) ∧
    decodeTableWord 32 0x00100011 = some (.openSession .mono1 16#16 true) ∧
    decodeTableWord 8 0x81 = some (.pbRep 1#7) := by decide

/-! ## A step runs the instruction placed before it -/

theorem test_withFetchWord_open :
    elementsOf (step (State.reset.withFetchWord 32 0x00040005)) = some [1, 1, 4, 4, 64, 0, 0] := by decide

theorem test_withFetchWord_submit :
    answerOf (step (gray4.withFetchWord 96 (0x132 + 2 * 2 ^ 64))) = some (.emitted, 2, 0) := by decide

theorem test_withFetchWord_token :
    (after (step (State.reset.withFetchWord 8 0xFE))).bind (fun t => t.run.map fun u => (u.inPos, u.outCnt, u.ctl)) =
      some (2, 3, 0xFE#8) := by decide

/-- R65: a SUBMIT of L = 3 and C = 9 gets the first 3 and 9 of the 16 bytes that the host provides. -/
theorem test_step_window_sizes :
    (after (step ({ gray4 with inbox := [.request
        { words := [0x00000032#32, 3#32, 9#32], src := blank, dst := blank, overlap := false }] }))).map
      (fun t => (t.src.size, t.dst.size)) = some (3, 9) := by decide

/-- R214: a WhiteFill whose host provides 16 of the 17 source bytes it declares has no run; with 16 of 16 it fills. -/
theorem test_step_fill_short_source :
    refusalOf (step (asked [0x00000132#32, 17#32, 2#32] gray4)) = some .shortWindow ∧
    answerOf (step (asked [0x00000132#32, 16#32, 2#32] gray4)) = some (.emitted, 2, 0) := by decide

/-- R214: no FAULT for a host that breaks a duty, without an open session or with the other window absent; the FAULT of R201
where the window that would be too short or overlap is absent. -/
theorem test_step_duty_before_fault :
    refusalOf (step (asked [0x00000032#32, 1#32, 17#32] { shut with src := blank, dst := blank })) = some .shortWindow ∧
    refusalOf (step (asked [0x00000032#32, 1#32, 1#32] { shut with src := blank, dst := blank, overlap := true })) =
      some .overlappingWindows ∧
    refusalOf (step (asked [0x00000012#32, 17#32, 1#32] gray4)) = some .shortWindow ∧
    answerOf (step (asked [0x00000012#32, 16#32, 17#32] { gray4 with overlap := true })) = some (.fault, 0, 0) := by decide

/-! ## Single requests, results from 95_test_vectors.md -/

/-- G9: the layout of an RGB session, and its planes. -/
theorem test_open_rgb :
    answerOf (exec (.openSession .rgb24 2#16 false) shut) = some (.ok, 6, 96) ∧
    planesOf 2 (exec (.openSession .rgb24 2#16 false) shut) = some [[0, 0], [0, 0], [0, 0]] := by decide

/-- G18: a failed OPEN over an open session with a row begun. -/
theorem test_open_failed :
    elementsOf (exec (.openSession .mono1 0#16 false) { rgb3 with rf := true }) = some [2, 0, 0, 0, 0, 0, 0] ∧
    answerOf (exec (.openSession .mono1 0#16 false) rgb3) = some (.invalidConfig, 0, 0) := by decide

/-- V18: the quantizer's bit order, threshold and padding. -/
theorem test_raw_mono :
    dstOf 3 (exec (.submitRaw .untagged true true 12#32 2#32)
      (windows [255, 0, 255, 0, 255, 0, 255, 0, 200, 200, 10, 128] [0, 0, 7] mono12)) = some [0xAA, 0xD0, 7] := by decide

/-- A4: P = 2 of 3 pixels, interleaved, the bytes past them kept. -/
theorem test_raw_blue :
    dstOf 8 (exec (.submitRaw .blue true true 3#32 8#32) (windows [7, 8, 9] (List.replicate 8 0xEE) rgbRow)) =
      some [1, 4, 7, 2, 5, 8, 0xEE, 0xEE] ∧
    planesOf 3 (exec (.submitRaw .blue true true 3#32 8#32) (windows [7, 8, 9] (List.replicate 8 0xEE) rgbRow)) =
      some [[1, 2, 3], [4, 5, 6], [7, 8, 9]] := by decide

/-- V16 and V17: the fill sets every byte of C, padding bits included. -/
theorem test_fill_mono :
    dstOf 4 (exec (.submitFill .untagged true true 0#32 3#32) (windows [] [0, 0, 0, 5] mono12)) =
      some [0xFF, 0xFF, 0xFF, 5] := by decide

/-- P2 step 7: a filled Green plane. -/
theorem test_fill_green :
    planesOf 4 (exec (.submitFill .green true true 0#32 0#32) rgb3) =
      some [[0, 0, 0, 0], [0xFF, 0xFF, 0xFF, 0], [0, 0, 0, 0]] := by decide

/-- V8: the capacity is reached inside a literal. -/
theorem test_packBits_gray :
    dstOf 5 (exec (.submitPackBits .untagged true true 5#32 4#32)
      (windows [0xFE, 0x11, 0x01, 0x22, 0x33] [0, 0, 0, 0, 6] gray4)) = some [0x11, 0x11, 0x11, 0x22, 6] := by decide

/-- V9: underflow keeps the rest of the destination. -/
theorem test_packBits_underflow :
    dstOf 4 (exec (.submitPackBits .untagged true true 2#32 4#32) (windows [0x01, 0x55] [9, 9, 9, 9] gray4)) =
      some [0x55, 9, 9, 9] := by decide

/-- V14: copied raw, not decoded as PackBits. -/
theorem test_unknown_gray :
    dstOf 4 (exec (.submitUnknown 0xFF#8 .untagged true true 2#32 4#32) (windows [0x02, 0xAA] [0, 0, 0, 0] gray4)) =
      some [0x02, 0xAA, 0, 0] := by decide

/-- A12: a close in mid-row. -/
theorem test_close :
    elementsOf (exec .close rgbRow) = some [2, 0, 0, 0, 0, 0, 0] ∧ planesOf 1 (exec .close rgbRow) = none := by
  decide

/-- E11: an illegal header before anything else, through the step. -/
theorem test_illegal :
    answerOf (step (asked [0x00010032#32, 1#32, 1#32] State.reset)) = some (.illegalCommand, 0, 0) := by decide

/-- B9: `PB(s)`, as the spec's loop and as the token machine. -/
theorem test_packBits_stream :
    packBits ([0x00, 0x09, 0xFD, 0x03, 0x80, 0x01, 0x04, 0x05].map (BitVec.ofNat 8)) =
      [0x09#8, 0x03#8, 0x03#8, 0x03#8, 0x03#8, 0x04#8, 0x05#8] ∧
    packBitsSamples (win [0x00, 0x09, 0xFD, 0x03, 0x80, 0x01, 0x04, 0x05]) 8#32 100 =
      [0x09#8, 0x03#8, 0x03#8, 0x03#8, 0x03#8, 0x04#8, 0x05#8] := by decide

/-- B4, B5: a literal cut short, a repeat without its byte. -/
theorem test_packBits_cut :
    packBits [0x03#8, 0x01#8, 0x02#8] = [0x01#8, 0x02#8] ∧ packBits [0xFF#8] = [] := by decide

/-- Q3. -/
theorem test_quantize :
    quantize [0x80#8, 0x7F#8, 0x80#8, 0x7F#8, 0x80#8, 0x7F#8, 0x80#8, 0x7F#8, 0x80#8] = [0xAA#8, 0x80#8] := by decide

/-! ## Witnesses: concrete states and operands that meet the hypotheses of each statement -/

/-- A request with these words, its windows 16 zeros each and apart. -/
def plain (words : List Word) : Request := { words := words, src := blank, dst := blank, overlap := false }

/-- The next state, or the state itself where there is none. -/
def nextOf (r : Result) (s : State) : State := (after r).getD s

theorem nextOf_spec {r : Result} {s : State} (h : (after r).isSome = true) : r = .next (nextOf r s) := by
  cases r <;> simp_all [after, nextOf]

theorem witness_DecodeEncodeRoundTrip :
    (Instr.submitUnknown 0x03#8 .untagged false true 0#32 0xFFFFFFFF#32).wellFormed = true ∧
    (Instr.submitUnknown 0xFF#8 .blue true false 0#32 0#32).wellFormed = true ∧
    (Instr.illegal 0x00000000#32).wellFormed = true ∧ (Instr.illegal 0x80000003#32).wellFormed = true ∧
    (Instr.pbRep 1#7).wellFormed = true ∧ (Instr.pbRep 127#7).wellFormed = true ∧
    (Instr.openSession .unrecognized 0#16 true).wellFormed = true ∧ Instr.close.wellFormed = true := by decide

theorem witness_EncodeDecodeKeepsEveryBit :
    decode (.request [0x00000732#32, 3#32, 2#32]) = .ok (.submitUnknown 7#8 .untagged true true 3#32 2#32) ∧
    decode (.request [0x80000003#32, 9#32]) = .ok (.illegal 0x80000003#32) ∧ decode (.control 0xFF#8) = .ok (.pbRep 127#7) := by
  decide

/-- One illegal header for each end of each range of R81, and the legal headers beside them. -/
theorem witness_IllegalHeadersAreThoseOfR81 :
    (HeaderIllegal 0xFFFFFFFC#32 ∧ HeaderIllegal 0x00000021#32 ∧ HeaderIllegal 0x00008001#32 ∧
      HeaderIllegal 0x00000042#32 ∧ HeaderIllegal 0x00000082#32 ∧ HeaderIllegal 0x00010002#32 ∧
      HeaderIllegal 0x80000002#32 ∧ HeaderIllegal 0x00000007#32 ∧ HeaderIllegal 0x80000003#32) ∧
    (legalHeader 0xFFFF001D#32 = true ∧ legalHeader 0x0000FF3E#32 = true ∧ legalHeader 0x00000003#32 = true) ∧
    (asked [0x00010032#32, 1#32, 1#32] gray4).run = none ∧
    (asked [0x00010032#32, 1#32, 1#32] gray4).inbox = [.request (plain [0x00010032#32, 1#32, 1#32])] := by
  refine ⟨⟨.inl (by decide), .inr (.inl ⟨by decide, by decide, 5, by decide⟩),
    .inr (.inl ⟨by decide, by decide, 15, by decide⟩), .inr (.inr (.inl ⟨by decide, by decide, 6, by decide⟩)),
    .inr (.inr (.inl ⟨by decide, by decide, 7, by decide⟩)), .inr (.inr (.inl ⟨by decide, by decide, 16, by decide⟩)),
    .inr (.inr (.inl ⟨by decide, by decide, 31, by decide⟩)), .inr (.inr (.inr ⟨by decide, by decide, 2, by decide⟩)),
    .inr (.inr (.inr ⟨by decide, by decide, 31, by decide⟩))⟩, by decide⟩

theorem witness_PackBitsControlByteClasses :
    0 ≤ (0x00#8).toInt ∧ 0 ≤ (0x7F#8).toInt ∧ (0x80#8).toInt = -128 ∧ (0x81#8).toInt = -127 ∧ (0xFF#8).toInt = -1 := by
  decide

/-- No SUBMIT, and a SUBMIT. -/
theorem witness_StepRunsTheDecodedRequest :
    ((asked [0x00040005#32] gray4).run = none ∧
      (asked [0x00040005#32] gray4).inbox = [.request (plain [0x00040005#32])] ∧
      decode (.request (plain [0x00040005#32]).words) = .ok (.openSession .gray8 4#16 false)) ∧
    ((asked [0x00000032#32, 3#32, 9#32] gray4).inbox = [.request (plain [0x00000032#32, 3#32, 9#32])] ∧
      decode (.request (plain [0x00000032#32, 3#32, 9#32]).words) = .ok (.submitRaw .untagged true true 3#32 9#32)) ∧
    IsSubmit (.submitRaw .untagged true true 3#32 9#32) .untagged true true 3#32 9#32 :=
  ⟨by decide, by decide, .inl rfl⟩

/-- Windows longer than L and C, and exactly as long. -/
theorem witness_SubmitWindowsAreExactlyLAndC :
    (asked [0x00000032#32, 3#32, 16#32] gray4).run = none ∧
    (asked [0x00000032#32, 3#32, 16#32] gray4).inbox = [.request (plain [0x00000032#32, 3#32, 16#32])] ∧
    decode (.request (plain [0x00000032#32, 3#32, 16#32]).words) = .ok (.submitRaw .untagged true true 3#32 16#32) ∧
    IsSubmit (.submitRaw .untagged true true 3#32 16#32) .untagged true true 3#32 16#32 ∧
    blank.wf ∧ (3#32).toNat ≤ blank.size ∧ (16#32).toNat ≤ blank.size ∧
    ∃ t, step (asked [0x00000032#32, 3#32, 16#32] gray4) = .next t :=
  ⟨by decide, by decide, by decide, .inl rfl, by decide, by decide, by decide, _,
    nextOf_spec (s := State.reset) (by decide)⟩

/-- The first token of a stream, and its last byte. -/
theorem witness_StepRunsTheDecodedToken :
    (∃ u, (midway (atToken 2#32 4 0) (windows [0xFE, 0x11] [0, 0, 0, 0, 0, 0, 0, 0] gray4)).run = some u ∧ u.inPos < u.srcLen.toNat ∧
      u.out.length < u.cap ∧
      decode (.control ((windows [0xFE, 0x11] [0, 0, 0, 0, 0, 0, 0, 0] gray4).src.read u.inPos)) = .ok (.pbRep 126#7)) ∧
    (∃ u, (midway (atToken 2#32 1 1) (windows [0, 0x80] [0] gray4)).run = some u ∧ u.inPos < u.srcLen.toNat ∧
      u.out.length < u.cap ∧ decode (.control ((windows [0, 0x80] [0] gray4).src.read u.inPos)) = .ok .pbNop) :=
  ⟨⟨_, rfl, by decide⟩, ⟨_, rfl, by decide⟩⟩

theorem witness_IdleAndResetSteps :
    (gray4.run = none ∧ gray4.inbox = []) ∧
    ({ rgbRow with inbox := [.reset] } : State).run = none ∧
    ({ rgbRow with inbox := [.reset] } : State).inbox = .reset :: [] := by decide

theorem witness_ResetStateHasTheResetValues :
    (({ rgbRow with inbox := [.reset] } : State).run = none ∧ ∃ t, step { rgbRow with inbox := [.reset] } = .next t) ∧
    ∃ t, exec .close rgbRow = .next t := ⟨⟨rfl, _, rfl⟩, _, rfl⟩

/-- A reset while a request with these words is in progress is the host's next event. -/
def cut (words : List Word) (s : State) : State := { s with inbox := [.resetDuring (plain words)] }

/-- A SUBMIT on good windows, an OPEN, a SUBMIT of a closed session, and SUBMITs on overlapping and on short windows. -/
theorem witness_ResetAbandonsTheOperation :
    (decode (.request (plain [0x00000032#32, 16#32, 16#32]).words) = .ok (.submitRaw .untagged true true 16#32 16#32) ∧
      ({ gray4 with inbox := [.resetDuring (plain [0x00000032#32, 16#32, 16#32])] } : State).run = none ∧
      (plain [0x00000032#32, 16#32, 16#32]).overlap = false ∧ (16#32).toNat ≤ blank.size) ∧
    decode (.request (plain [0x00040005#32]).words) = .ok (.openSession .gray8 4#16 false) ∧
    (shut.lc ≠ .opened ∧ shut.run = none) ∧
    (({ plain [0x00000032#32, 1#32, 1#32] with overlap := true } : Request).overlap = true ∧
      blank.size < (17#32).toNat) ∧
    IsSubmit (.submitRaw .untagged true true 17#32 17#32) .untagged true true 17#32 17#32 ∧
    IsDecoding (.submitRaw .untagged true true 17#32 17#32) .untagged true true 17#32 17#32 :=
  ⟨by decide, by decide, by decide, by decide, .inl rfl, .inl rfl⟩

/-- SUBMITs that reach no destination byte: the source absent, the destination absent; a Red, a Green and an untagged record
of an RGB session. Windows are canonical, and each step answers. -/
theorem witness_ResetAbandonsTheOperation_untouched :
    blank.wf ∧
    (decode (.request (plain [0x00000022#32, 17#32, 3#32]).words) = .ok (.submitRaw .untagged false true 17#32 3#32) ∧
      ∃ t, step (cut [0x00000022#32, 17#32, 3#32] gray4) = .next t) ∧
    (decode (.request (plain [0x00000012#32, 3#32, 17#32]).words) = .ok (.submitRaw .untagged true false 3#32 17#32) ∧
      ∃ t, step (cut [0x00000012#32, 3#32, 17#32] gray4) = .next t) ∧
    (rgbRow.lc = .opened ∧ rgbRow.mode = .rgb24 ∧ rgbRow.run = none) ∧
    (decode (.request (plain [0x00000036#32, 3#32, 9#32]).words) = .ok (.submitRaw .red true true 3#32 9#32) ∧
      ∃ t, step (cut [0x00000036#32, 3#32, 9#32] rgbRow) = .next t) ∧
    (decode (.request (plain [0x0000003A#32, 3#32, 9#32]).words) = .ok (.submitRaw .green true true 3#32 9#32) ∧
      ∃ t, step (cut [0x0000003A#32, 3#32, 9#32] rgbRow) = .next t) ∧
    (decode (.request (plain [0x00000032#32, 3#32, 9#32]).words) = .ok (.submitRaw .untagged true true 3#32 9#32) ∧
      ∃ t, step (cut [0x00000032#32, 3#32, 9#32] rgbRow) = .next t) :=
  ⟨by decide, ⟨by decide, _, nextOf_spec (s := State.reset) (by decide)⟩,
    ⟨by decide, _, nextOf_spec (s := State.reset) (by decide)⟩, by decide,
    ⟨by decide, _, nextOf_spec (s := State.reset) (by decide)⟩,
    ⟨by decide, _, nextOf_spec (s := State.reset) (by decide)⟩,
    ⟨by decide, _, nextOf_spec (s := State.reset) (by decide)⟩⟩

/-- The invariant holds in a Gray session with a request to come, in an RGB session with a row begun, and
inside a PackBits SUBMIT; each has a next state, and each host keeps its duties. -/
theorem inv_gray4 : (asked [0x00000032#32, 0#32, 4#32] gray4).Inv where
  depth_pos := by decide
  closed_is_cleared := by decide
  open_has_pixels := by decide
  open_has_bpl := by decide
  open_has_maxbuf := by decide
  not_rgb := by decide
  rgb := by decide
  planes_ok := by intro ps h; cases h
  run_ok := by intro u h; cases h
  src_wf := by decide
  dst_wf := by decide
  inbox_wf := by intro e he; cases List.mem_singleton.1 he; exact ⟨by decide, by decide⟩

theorem inv_rgbRow : (asked [0x0000003E#32, 0#32, 4#32] rgbRow).Inv where
  depth_pos := by decide
  closed_is_cleared := by decide
  open_has_pixels := by decide
  open_has_bpl := by decide
  open_has_maxbuf := by decide
  not_rgb := by decide
  rgb := by decide
  planes_ok := by intro ps h p; cases h; cases p <;> decide
  run_ok := by intro u h; cases h
  src_wf := by decide
  dst_wf := by decide
  inbox_wf := by intro e he; cases List.mem_singleton.1 he; exact ⟨by decide, by decide⟩

theorem inv_midway : (midway (atToken 2#32 8 0) (windows [0xFE, 0x11] [0, 0, 0, 0, 0, 0, 0, 0] gray4)).Inv where
  depth_pos := by decide
  closed_is_cleared := by decide
  open_has_pixels := by decide
  open_has_bpl := by decide
  open_has_maxbuf := by decide
  not_rgb := by decide
  rgb := by decide
  planes_ok := by intro ps h; cases h
  run_ok := by intro u h; cases h; decide
  src_wf := by decide
  dst_wf := by decide
  inbox_wf := by intro e he; cases he

theorem witness_StepKeepsTheInvariant :
    ((asked [0x00000032#32, 0#32, 4#32] gray4).Inv ∧ ∃ t, step (asked [0x00000032#32, 0#32, 4#32] gray4) = .next t) ∧
    ((asked [0x0000003E#32, 0#32, 4#32] rgbRow).Inv ∧ ∃ t, step (asked [0x0000003E#32, 0#32, 4#32] rgbRow) = .next t) ∧
    (midway (atToken 2#32 8 0) (windows [0xFE, 0x11] [0, 0, 0, 0, 0, 0, 0, 0] gray4)).Inv ∧
      ∃ t, step (midway (atToken 2#32 8 0) (windows [0xFE, 0x11] [0, 0, 0, 0, 0, 0, 0, 0] gray4)) = .next t :=
  ⟨⟨inv_gray4, _, nextOf_spec (s := State.reset) (by decide)⟩, ⟨inv_rgbRow, _, nextOf_spec (s := State.reset) (by decide)⟩,
    inv_midway, _, nextOf_spec (s := State.reset) (by decide)⟩

theorem witness_DutifulHostNeverStopsTheBlock :
    (asked [0x0000003E#32, 0#32, 4#32] rgbRow).Inv ∧ (asked [0x0000003E#32, 0#32, 4#32] rgbRow).dutiful := by
  refine ⟨inv_rgbRow, ?_⟩
  intro e he
  cases List.mem_singleton.1 he
  exact ⟨.submitRaw .blue true true 0#32 4#32, by decide, by intro o ho; cases ho; decide⟩

/-- A request, and a reset while a request is in progress. -/
theorem witness_TransientRegistersEndWithTheOperation :
    ((asked [0x00000003#32] rgbRow).run = none ∧ ∃ t, step (asked [0x00000003#32] rgbRow) = .next t) ∧
    ({ shut with inbox := [.resetDuring (plain [0x00000003#32])] } : State).run = none ∧
      ∃ t, step { shut with inbox := [.resetDuring (plain [0x00000003#32])] } = .next t :=
  ⟨⟨rfl, _, nextOf_spec (s := State.reset) (by decide)⟩, rfl, _, nextOf_spec (s := State.reset) (by decide)⟩

theorem witness_PlaneDepthNeverChanges :
    ∃ t, step { rgbRow with cfg := { planeDepth := 3 }, inbox := [.reset] } = .next t :=
  ⟨_, nextOf_spec (s := State.reset) (by decide)⟩

/-- The three cases of OPEN: N = 0; RGB with N one above PLANE_DEPTH; RGB with N at PLANE_DEPTH, any other mode above
it, and the largest N. -/
theorem witness_OpenOutcomes :
    (¬ ((2#16 : BitVec 16) = 0#16) ∧ (1 : Nat) < (2#16).toNat) ∧
    ((65535#16 : BitVec 16) ≠ 0#16 ∧ ¬ (ModeField.rgb24 = .rgb24 ∧ State.reset.cfg.planeDepth < (65535#16).toNat)) ∧
    ((1#16 : BitVec 16) ≠ 0#16 ∧ ¬ (ModeField.rgb24 = .rgb24 ∧ 1 < (1#16).toNat)) ∧
    ¬ (ModeField.gray8 = .rgb24 ∧ 1 < (8192#16).toNat) := by decide

theorem witness_FreshPlanesReadZero :
    (∃ t, exec (.openSession .rgb24 65535#16 true) rgbRow = .next t ∧ t.lc = .opened) ∧
    ∃ t, exec (.openSession .unrecognized 1#16 true) rgbRow = .next t ∧ t.lc = .opened :=
  ⟨⟨_, nextOf_spec (s := State.reset) (by decide), by decide⟩, ⟨_, nextOf_spec (s := State.reset) (by decide), by decide⟩⟩

/-- The least and the greatest N. -/
theorem witness_AlignedLineProperties :
    (∃ u g, geometry .mono1 1#16 false = some u ∧ geometry .mono1 1#16 true = some g) ∧
    ∃ u g, geometry .rgb24 65535#16 false = some u ∧ geometry .rgb24 65535#16 true = some g :=
  ⟨⟨_, _, rfl, rfl⟩, ⟨_, _, rfl, rfl⟩⟩

theorem witness_CloseIsIdempotent : ∃ t, exec .close shut = .next t := ⟨_, rfl⟩

/-- No open session (before the first and after one), a source absent, a destination absent. -/
theorem witness_SubmitStructuralFault :
    (IsSubmit (.submitFill .blue true true 1#32 1#32) .blue true true 1#32 1#32 ∧ State.reset.lc ≠ .opened ∧
      shut.lc ≠ .opened) ∧
    (IsSubmit (.submitUnknown 3#8 .red false true 1#32 1#32) .red false true 1#32 1#32 ∧ gray4.lc = .opened) ∧
    IsSubmit (.submitRaw .green true false 1#32 1#32) .green true false 1#32 1#32 ∧
    (State.reset.dutiesKept true true 0#32 0#32 ∧ State.reset.dutiesKept false false 1#32 1#32 ∧
      gray4.dutiesKept false true 17#32 16#32 ∧ ({ gray4 with overlap := true } : State).dutiesKept true false 16#32 17#32) :=
  ⟨⟨.inr (.inl rfl), by decide⟩, ⟨.inr (.inr (.inr ⟨_, rfl⟩)), rfl⟩, .inl rfl, by decide⟩

/-- A SUBMIT in an open and in no session, and a PackBits SUBMIT in progress. -/
theorem witness_OverlappingWindowsAreRefused :
    IsSubmit (.submitRaw .untagged true true 0#32 0#32) .untagged true true 0#32 0#32 ∧
    (({ gray4 with overlap := true } : State).overlap = true ∧ ({ shut with overlap := true } : State).overlap = true) ∧
    ∃ u, (midway (atToken 2#32 4 0) { gray4 with overlap := true }).run = some u :=
  ⟨.inl rfl, by decide, _, rfl⟩

/-- One byte too few, of the destination and of the source, of what a WhiteFill names too; the duty broken, also about one
window where the other is absent. -/
theorem witness_ShortWindowsAreRefused :
    ((asked [0x00000132#32, 17#32, 16#32] gray4).run = none ∧
      (asked [0x00000132#32, 17#32, 16#32] gray4).inbox = [.request (plain [0x00000132#32, 17#32, 16#32])] ∧
      decode (.request (plain [0x00000132#32, 17#32, 16#32]).words) = .ok (.submitFill .untagged true true 17#32 16#32) ∧
      blank.size < (17#32).toNat ∧ ({ gray4 with short := true } : State).short = true ∧
      decode (.request (plain [0x00000122#32, 0#32, 17#32]).words) = .ok (.submitFill .untagged false true 0#32 17#32)) ∧
    IsSubmit (.submitFill .untagged true true 17#32 16#32) .untagged true true 17#32 16#32 ∧
    (gray4.lc = .opened ∧ gray4.overlap = false ∧ gray4.dst.size < (17#32).toNat ∧ gray4.src.size < (17#32).toNat) ∧
    IsSubmit (.submitFill .untagged true true 0#32 17#32) .untagged true true 0#32 17#32 ∧
    IsDecoding (.submitRaw .untagged true true 17#32 0#32) .untagged true true 17#32 0#32 ∧
    (midway (atToken 17#32 4 0) gray4).run = some (atToken 17#32 4 0) ∧
    gray4.src.size < (atToken 17#32 4 0).srcLen.toNat :=
  ⟨by decide, .inr (.inl rfl), by decide, .inr (.inl rfl), .inl rfl, rfl, by decide⟩

/-- Empty input and no room; windows used to their last bytes. -/
theorem witness_GrayLineIsTheDecodedSamples :
    (IsDecoding (.submitRaw .untagged true true 0#32 0#32) .untagged true true 0#32 0#32 ∧
      IsDecoding (.submitPackBits .red true true 16#32 16#32) .red true true 16#32 16#32) ∧
    gray4.lc = .opened ∧ gray4.windowsOk 0#32 0#32 ∧ gray4.windowsOk 16#32 16#32 ∧ gray4.mode = .gray8 :=
  ⟨⟨.inl rfl, .inr (.inl rfl)⟩, by decide⟩

theorem witness_MonoLineIsThePackedSamples :
    (IsDecoding (.submitPackBits .untagged true true 2#32 0#32) .untagged true true 2#32 0#32 ∧
      IsDecoding (.submitUnknown 0xFF#8 .red true true 14#32 4#32) .red true true 14#32 4#32) ∧
    mono12.lc = .opened ∧ mono12.windowsOk 2#32 0#32 ∧ mono12.windowsOk 14#32 4#32 ∧ mono12.mode = .mono1 :=
  ⟨⟨.inr (.inl rfl), .inr (.inr ⟨_, rfl⟩)⟩, by decide⟩

/-- Both clauses: a session that is not RGB; each plane of an RGB session. -/
theorem witness_WhiteFillFillsTheWholeSpan :
    (mono12.lc = .opened ∧ mono12.windowsOk 0#32 16#32 ∧ mono12.mode ≠ .rgb24) ∧
    (rgbRow.lc = .opened ∧ rgbRow.windowsOk 0#32 0#32 ∧ rgbRow.mode = .rgb24 ∧ ∃ ps, rgbRow.planes = some ps) :=
  ⟨by decide, by decide, by decide, by decide, _, rfl⟩

theorem witness_RedOrGreenRecordIsBuffered :
    (IsSubmit (.submitFill .red true true 0#32 0#32) .red true true 0#32 0#32 ∧
      IsSubmit (.submitRaw .green true true 9#32 0#32) .green true true 9#32 0#32) ∧
    (rgb3.lc = .opened ∧ rgb3.windowsOk 0#32 0#32 ∧ rgb3.windowsOk 9#32 0#32 ∧ rgb3.mode = .rgb24) ∧
    ∃ ps, rgb3.planes = some ps :=
  ⟨⟨.inr (.inl rfl), .inl rfl⟩, by decide, _, rfl⟩

/-- Room for no pixel (C = 2) and for more than the row. -/
theorem witness_BlueRecordEmitsACompleteRow :
    (IsSubmit (.submitRaw .blue true true 3#32 2#32) .blue true true 3#32 2#32 ∧
      IsSubmit (.submitPackBits .blue true true 2#32 10#32) .blue true true 2#32 10#32) ∧
    (rgbRow.lc = .opened ∧ rgbRow.windowsOk 3#32 2#32 ∧ rgbRow.windowsOk 2#32 10#32 ∧ rgbRow.mode = .rgb24) ∧
    (∃ ps, rgbRow.planes = some ps) ∧ rgbRow.rf = true ∧ rgbRow.gf = true :=
  ⟨⟨.inl rfl, .inr (.inr (.inl rfl))⟩, by decide, ⟨_, rfl⟩, rfl, rfl⟩

/-- Red missing, Green missing, both missing. -/
theorem witness_BlueRecordDropsAPartialRow :
    IsSubmit (.submitUnknown 3#8 .blue true true 3#32 9#32) .blue true true 3#32 9#32 ∧
    (rgb3.lc = .opened ∧ rgb3.windowsOk 3#32 9#32 ∧ rgb3.mode = .rgb24 ∧ ∃ ps, rgb3.planes = some ps) ∧
    ({ rgbRow with rf := false } : State).rf = false ∧ ({ rgbRow with gf := false } : State).gf = false ∧
    rgb3.rf = false ∧ rgb3.gf = false :=
  ⟨.inr (.inr (.inr ⟨_, rfl⟩)), ⟨rfl, by decide, rfl, _, rfl⟩, rfl, rfl, rfl, rfl⟩

/-- With both windows, and with one absent. -/
theorem witness_UntaggedRecordIsIgnoredInRgb :
    IsSubmit (.submitRaw .untagged true true 3#32 9#32) .untagged true true 3#32 9#32 ∧
    IsSubmit (.submitFill .untagged false true 3#32 9#32) .untagged false true 3#32 9#32 ∧
    rgbRow.lc = .opened ∧ rgbRow.dutiesKept true true 3#32 9#32 ∧ rgbRow.dutiesKept false true 17#32 9#32 ∧
      rgbRow.mode = .rgb24 :=
  ⟨.inl rfl, .inr (.inl rfl), by decide⟩

/-- A row that is emitted: the premise of the first clause is met too. -/
theorem witness_EmittedOnlyForAFullRow :
    IsSubmit (.submitRaw .blue true true 3#32 9#32) .blue true true 3#32 9#32 ∧ rgbRow.lc = .opened ∧
    rgbRow.mode = .rgb24 ∧
    ∃ t, exec (.submitRaw .blue true true 3#32 9#32) rgbRow = .next t ∧ ∃ w1 w2, t.response = answer .emitted w1 w2 :=
  ⟨.inl rfl, rfl, rfl, _, nextOf_spec (s := State.reset) (by decide), 9#32, 0#32, by decide⟩

theorem witness_RedAndGreenCommute :
    IsSubmit (.submitRaw .red true true 1#32 0#32) .red true true 1#32 0#32 ∧
    IsSubmit (.submitFill .green true true 0#32 0#32) .green true true 0#32 0#32 ∧
    rgb3.lc = .opened ∧ rgb3.mode = .rgb24 ∧
    ∃ t1 t2 t1' t2', exec (.submitRaw .red true true 1#32 0#32) { rgb3 with src := win [9] } = .next t1 ∧
      exec (.submitFill .green true true 0#32 0#32) { t1 with src := win [7] } = .next t2 ∧
      exec (.submitFill .green true true 0#32 0#32) { rgb3 with src := win [7] } = .next t1' ∧
      exec (.submitRaw .red true true 1#32 0#32) { t1' with src := win [9] } = .next t2' :=
  ⟨.inl rfl, .inr (.inl rfl), rfl, rfl, _, _, _, _, rfl, rfl, rfl, rfl⟩

/-- Records of exactly N bytes and a destination of exactly 3N. -/
theorem witness_ThreeRecordsEmitTheInterleavedRow :
    rgb3.lc = .opened ∧ rgb3.mode = .rgb24 ∧ rgb3.overlap = false ∧ rgb3.short = false ∧ (∃ ps, rgb3.planes = some ps) ∧
    ((3#32).toNat ≤ (win [1, 2, 3]).size ∧ (0#32).toNat ≤ rgb3.dst.size ∧ (9#32).toNat ≤ rgb3.dst.size) ∧
    rgb3.n.toNat ≤ (3#32).toNat ∧ 3 * rgb3.n.toNat ≤ (9#32).toNat :=
  ⟨rfl, rfl, rfl, rfl, ⟨_, rfl⟩, by decide, by decide, by decide⟩

theorem witness_TagIgnoredOutsideRgb : gray4.mode ≠ .rgb24 ∧ mono12.mode ≠ .rgb24 := by decide

/-- A SUBMIT of each form that answers a next state. -/
theorem witness_SubmitFrame :
    (IsSubmit (.submitFill .red true true 0#32 0#32) .red true true 0#32 0#32 ∧
      ∃ t, exec (.submitFill .red true true 0#32 0#32) rgb3 = .next t) ∧
    (IsSubmit (.submitRaw .red false true 0#32 1#32) .red false true 0#32 1#32 ∧
      ∃ t, exec (.submitRaw .red false true 0#32 1#32) rgb3 = .next t) ∧
    (IsSubmit (.submitPackBits .red true true 0#32 1#32) .red true true 0#32 1#32 ∧
      ∃ t, exec (.submitPackBits .red true true 0#32 1#32) mono12 = .next t) ∧
    IsSubmit (.submitUnknown 3#8 .red true true 0#32 1#32) .red true true 0#32 1#32 ∧
      ∃ t, exec (.submitUnknown 3#8 .red true true 0#32 1#32) gray4 = .next t :=
  ⟨⟨.inr (.inl rfl), _, rfl⟩, ⟨.inl rfl, _, rfl⟩, ⟨.inr (.inr (.inl rfl)), _, rfl⟩, .inr (.inr (.inr ⟨_, rfl⟩)), _, rfl⟩

/-- A destination that is filled to its last byte, and one of no bytes. -/
theorem witness_SubmitNeverWritesPastTheCapacity :
    (IsSubmit (.submitFill .untagged true true 0#32 2#32) .untagged true true 0#32 2#32 ∧
      ∃ t, exec (.submitFill .untagged true true 0#32 2#32) gray4 = .next t) ∧
    IsSubmit (.submitRaw .untagged true true 3#32 0#32) .untagged true true 3#32 0#32 ∧
      ∃ t, exec (.submitRaw .untagged true true 3#32 0#32) mono12 = .next t :=
  ⟨⟨.inr (.inl rfl), _, rfl⟩, .inl rfl, _, rfl⟩

/-- Windows that differ from the declared length on; a literal token that runs past it. -/
theorem witness_SubmitReadsOnlyTheDeclaredLength :
    IsSubmit (.submitPackBits .untagged true true 2#32 9#32) .untagged true true 2#32 9#32 ∧
    win [5, 1, 77] ≠ win [5, 1, 8] ∧ (win [5, 1, 77]).size = (win [5, 1, 8]).size ∧
    ∀ a, a < (2#32).toNat → (win [5, 1, 77]).read a = (win [5, 1, 8]).read a :=
  ⟨.inr (.inr (.inl rfl)), by decide, by decide, by decide⟩

theorem witness_SubmitIgnoresTheLayout : IsSubmit (.submitRaw .blue true true 3#32 9#32) .blue true true 3#32 9#32 := .inl rfl

/-- A Gray session, and a Red and a Green record of an RGB session. -/
theorem witness_ZeroLengthInput :
    (IsDecoding (.submitPackBits .untagged true true 0#32 4#32) .untagged true true 0#32 4#32 ∧ gray4.lc = .opened ∧
      gray4.windowsOk 0#32 4#32 ∧ gray4.mode ≠ .rgb24) ∧
    (IsDecoding (.submitRaw .red true true 0#32 0#32) .red true true 0#32 0#32 ∧
      IsDecoding (.submitRaw .green true true 0#32 0#32) .green true true 0#32 0#32 ∧ rgb3.lc = .opened ∧
      rgb3.windowsOk 0#32 0#32 ∧ rgb3.mode = .rgb24 ∧ rgb3.planes ≠ none) :=
  ⟨⟨.inr (.inl rfl), by decide⟩, .inl rfl, .inl rfl, by decide⟩

/-- Each transition: the three answers of OPEN, both of SUBMIT, CLOSE and an illegal header. -/
theorem witness_LifecycleTransitions :
    answerOf (exec (.openSession .rgb24 3#16 false) gray4) = some (.ok, 9, 144) ∧
    answerOf (exec (.openSession .gray8 0#16 false) gray4) = some (.invalidConfig, 0, 0) ∧
    answerOf (exec (.openSession .rgb24 3#16 false) { shut with cfg := { planeDepth := 2 } }) =
      some (.allocationFailure, 0, 0) ∧
    answerOf (exec (.submitRaw .red true true 0#32 0#32) shut) = some (.fault, 0, 0) ∧
    answerOf (exec (.submitRaw .red true true 0#32 0#32) rgb3) = some (.buffered, 0, 0) ∧
    answerOf (exec (.submitRaw .red true true 0#32 0#32) gray4) = some (.emitted, 0, 0) ∧
    answerOf (exec .close shut) = some (.ok, 0, 0) ∧
    answerOf (exec (.illegal 0#32) gray4) = some (.illegalCommand, 0, 0) ∧
    (Instr.openSession .rgb24 3#16 false).isRequest = true ∧ Instr.close.isRequest = true ∧
    (Instr.submitRaw .red true true 0#32 0#32).isRequest = true ∧ (Instr.illegal 0#32).isRequest = true := by decide

/-- The premises of each clause of ResponseWords: see the answers of `witness_LifecycleTransitions`. -/
theorem witness_ResponseWords :
    (Instr.openSession .rgb24 65535#16 true).isRequest = true ∧
    answerOf (exec (.openSession .rgb24 65535#16 true) State.reset) = some (.ok, 196608, 3145728) ∧
    (Instr.submitFill .untagged true true 0#32 6#32).isRequest = true ∧
    answerOf (exec (.submitFill .untagged true true 0#32 6#32) gray4) = some (.emitted, 6, 0) := by decide

theorem witness_ErrorsArePrecise :
    answerOf (exec (.submitRaw .green true false 1#32 0#32) rgbRow) = some (.fault, 0, 0) ∧
    answerOf (exec (.illegal 0x00100021#32) rgbRow) = some (.illegalCommand, 0, 0) ∧
    answerOf (exec (.openSession .unrecognized 0#16 true) rgbRow) = some (.invalidConfig, 0, 0) ∧
    answerOf (exec (.openSession .rgb24 8192#16 false) { rgbRow with cfg := { planeDepth := 8191 } }) =
      some (.allocationFailure, 0, 0) ∧
    (Instr.openSession .unrecognized 0#16 true).isRequest = true := by decide

theorem witness_UnopenedAndClosedBehaveAlike :
    (gray4.run = none ∧ ∃ t, exec .close gray4 = .next t) ∧ shut.lc = .closed := ⟨⟨rfl, _, rfl⟩, rfl⟩

/-- A literal with all its bytes, one cut by L, and one at a full capacity. -/
theorem witness_LiteralTokenCopies :
    ((midway (atToken 3#32 9 0) gray4).run = some (atToken 3#32 9 0) ∧
      (midway (atToken 3#32 9 0) gray4).windowsOk (atToken 3#32 9 0).srcLen (atToken 3#32 9 0).dstCap) ∧
    ((midway (atToken 1#32 9 0) gray4).run = some (atToken 1#32 9 0) ∧
      (midway (atToken 1#32 9 0) gray4).windowsOk (atToken 1#32 9 0).srcLen (atToken 1#32 9 0).dstCap) ∧
    ((midway (atToken 3#32 0 0) gray4).run = some (atToken 3#32 0 0) ∧
      (midway (atToken 3#32 0 0) gray4).windowsOk (atToken 3#32 0 0).srcLen (atToken 3#32 0 0).dstCap) := by decide

/-- The longest and the shortest repeat; the states are those of `witness_LiteralTokenCopies`, with and without a byte
left. -/
theorem witness_RepeatTokenRepeats :
    decode (.control 0x81#8) = .ok (.pbRep 1#7) ∧ decode (.control 0xFF#8) = .ok (.pbRep 127#7) ∧
    ((midway (atToken 2#32 9 0) gray4).run = some (atToken 2#32 9 0) ∧
      (midway (atToken 2#32 9 0) gray4).windowsOk (atToken 2#32 9 0).srcLen (atToken 2#32 9 0).dstCap) ∧
    (midway (atToken 1#32 9 0) gray4).run = some (atToken 1#32 9 0) ∧
      (midway (atToken 1#32 9 0) gray4).windowsOk (atToken 1#32 9 0).srcLen (atToken 1#32 9 0).dstCap := by decide

theorem witness_NopTokenSkips :
    (midway (atToken 1#32 9 0) gray4).run = some (atToken 1#32 9 0) ∧
    (midway (atToken 1#32 9 0) gray4).windowsOk (atToken 1#32 9 0).srcLen (atToken 1#32 9 0).dstCap := by decide

theorem witness_TokensOnlyInsideAPackBitsSubmit : gray4.run = none := rfl

/-- An RGB session with planes, and a Monochrome session. -/
theorem witness_TokenByTokenRunIsTheSubmit :
    (rgbRow.run = none ∧ rgbRow.lc = .opened ∧ rgbRow.windowsOk 16#32 16#32 ∧ (rgbRow.mode = .rgb24 → rgbRow.planes ≠ none)) ∧
    (mono12.run = none ∧ mono12.lc = .opened ∧ mono12.windowsOk 0#32 0#32 ∧ (mono12.mode = .rgb24 → mono12.planes ≠ none)) := by
  decide

end Sys2Proof.Tests
end

section
/-! PROOF. The transient registers of R33 as every operation leaves them: no request gives them a value, a token acts on
them only where they have one, and a reset takes it away. -/

namespace Sys2Proof.Machine

/-! ## Sinks and routing leave them alone -/

@[simp] theorem emitLine_run (bytes : List Byte) (s : State) : (emitLine bytes s).run = s.run := rfl

@[simp] theorem assembleRed_run (seq : List Byte) (ps : Planes) (s : State) : (assembleRed seq ps s).run = s.run := rfl

@[simp] theorem assembleGreen_run (seq : List Byte) (ps : Planes) (s : State) : (assembleGreen seq ps s).run = s.run := rfl

@[simp] theorem assembleBlue_run (seq : List Byte) (cap : Word) (ps : Planes) (s : State) :
    (assembleBlue seq cap ps s).run = s.run := by
  by_cases h : s.rf = false ∨ s.gf = false
  · simp [assembleBlue_partial h]
  · obtain ⟨hr, hg⟩ : s.rf = true ∧ s.gf = true := by simpa using h
    simp [assembleBlue_complete hr hg]

theorem assemble_run {tag : PlaneTag} {seq : List Byte} {cap : Word} {s t : State}
    (h : assemble tag seq cap s = .next t) : t.run = s.run := by
  rcases assemble_next h with ⟨-, rfl⟩ | ⟨ps, -, ⟨-, rfl⟩ | ⟨-, rfl⟩ | ⟨-, rfl⟩⟩
  · exact State.respond_run ..
  · exact assembleRed_run ..
  · exact assembleGreen_run ..
  · exact assembleBlue_run ..

theorem deliver_run {seq : List Byte} {tag : PlaneTag} {cap : Word} {s t : State}
    (h : deliver seq tag cap s = .next t) : t.run = s.run := by
  cases hm : s.mode with
  | mono1 => rw [deliver_mono hm] at h; cases h; rfl
  | gray8 => rw [deliver_gray hm] at h; cases h; rfl
  | rgb24 => rw [deliver_rgb hm] at h; exact assemble_run h

theorem deliverFill_run {tag : PlaneTag} {cap : Word} {s t : State}
    (h : deliverFill tag cap s = .next t) : t.run = s.run := by
  by_cases hm : s.mode = .rgb24
  · rw [deliverFill_rgb hm] at h; exact assemble_run h
  · rw [deliverFill_line hm] at h; cases h; rfl

/-! ## Requests -/

/-- A SUBMIT leaves the transient registers alone where its own part does. -/
theorem submit_run {srcp dstp : Bool} {len cap : Word} {body : State → Result} {s t : State}
    (hb : body s = .next t → t.run = s.run) (h : submit srcp dstp len cap body s = .next t) : t.run = s.run := by
  rcases (submit_next h).2 with ⟨rfl, -⟩ | ⟨-, -, -, -, hbody⟩
  · rfl
  · exact hb hbody

theorem execOpen_run {mode : ModeField} {n : BitVec 16} {align : Bool} {s t : State}
    (h : execOpen mode n align s = .next t) : t.run = s.run := by
  rcases open_next h with ⟨-, rfl⟩ | ⟨-, -, rfl⟩ | ⟨g, -, ⟨-, -, rfl⟩ | ⟨-, rfl⟩⟩ <;> rfl

/-- Without the transient registers there is no token (R21). -/
theorem onRun_ne_next {f : PbRun → PbRun} {s t : State} (hr : s.run = none) : onRun f s ≠ .next t := by
  rw [onRun_none hr]; exact nofun

/-- No instruction gives the transient registers a value: a request leaves them alone, and a token needs one to run. -/
theorem exec_run_none {i : Instr} {s t : State} (hr : s.run = none) (h : exec i s = .next t) : t.run = none := by
  cases i with
  | openSession mode n align => exact (execOpen_run h).trans hr
  | submitRaw tag srcp dstp len cap => exact (submit_run deliver_run h).trans hr
  | submitFill tag srcp dstp len cap => exact (submit_run deliverFill_run h).trans hr
  | submitPackBits tag srcp dstp len cap => exact (submit_run deliver_run h).trans hr
  | submitUnknown comp tag srcp dstp len cap => exact (submit_run deliver_run h).trans hr
  | close => cases h; exact hr
  | illegal header => cases h; exact hr
  | pbNop => exact absurd h (onRun_ne_next hr)
  | pbLit count => exact absurd h (onRun_ne_next hr)
  | pbRep low => exact absurd h (onRun_ne_next hr)

/-! ## Steps -/

/-- A reset ends the operation that it interrupts (R230). -/
theorem abandon_run {i : Instr} {s t : State} (h : s.abandon i = .next t) : t.run = none := by
  rcases abandon_next h with rfl | ⟨o, -, -, -, -, rfl⟩ <;> rfl

/-- Settles O15, by the cases of a step: idle, a request, a reset, a request interrupted by one; the two cases of a
SUBMIT in progress cannot arise. -/
theorem transientRegistersEndWithTheOperation : Obligations.TransientRegistersEndWithTheOperation := by
  intro s t hr h
  rcases step_next h with ⟨u, hu, -⟩ | ⟨u, hu, -⟩ | ⟨-, -, rfl⟩ | ⟨r, rest, i, -, -, -, hexec⟩ | ⟨rest, -, -, rfl⟩ |
    ⟨r, rest, i, -, -, -, habandon⟩
  · rw [hr] at hu; cases hu
  · rw [hr] at hu; cases hu
  · exact hr
  · exact exec_run_none ((State.load_run ..).trans hr) hexec
  · exact State.hardReset_run _
  · exact abandon_run habandon

end Sys2Proof.Machine
end

section
/-! PROOF. What the host's request leaves in the state before it runs (R59, R65): the windows of a SUBMIT are cut to L and
C bytes, those of any other request stand as the host provides them. -/

namespace Sys2Proof.Machine

open Sys2Proof.Claims

/-- The operands that the model takes from an instruction are those of the SUBMIT forms (R74). -/
theorem submitOperands_eq_some_iff {i : Instr} {tag : PlaneTag} {srcp dstp : Bool} {len cap : Word} :
    submitOperands i = some { tag, srcp, dstp, len, cap } ↔ IsSubmit i tag srcp dstp len cap := by
  cases i <;> simp [submitOperands, IsSubmit]

theorem submitOperands_eq_none {i : Instr} (h : ∀ tag srcp dstp len cap, ¬ IsSubmit i tag srcp dstp len cap) :
    submitOperands i = none :=
  Option.eq_none_iff_forall_ne_some.2 fun _ ho => h _ _ _ _ _ (submitOperands_eq_some_iff.1 ho)

/-- A request that is no SUBMIT finds the windows as the host provides them. -/
theorem load_eq_of_not_submit {i : Instr} (h : submitOperands i = none) (s : State) (r : Request)
    (rest : List HostEvent) :
    s.load r i rest = { s with src := r.src, dst := r.dst, overlap := r.overlap, short := false, inbox := rest } := by
  simp only [State.load, Request.srcFor, Request.dstFor, Request.shortFor, h]

/-- A SUBMIT finds the first L and C bytes of what the host provides, and the note whether that is too little (log 13). -/
theorem load_eq_of_submit {i : Instr} {o : SubmitOperands} (h : submitOperands i = some o) (s : State) (r : Request)
    (rest : List HostEvent) :
    s.load r i rest = { s with
      src := r.src.cut o.len.toNat
      dst := r.dst.cut o.cap.toNat
      overlap := r.overlap
      short := decide ((o.srcp = true ∧ r.src.size < o.len.toNat) ∨ (o.dstp = true ∧ r.dst.size < o.cap.toNat))
      inbox := rest } := by
  simp only [State.load, Request.srcFor, Request.dstFor, Request.shortFor, h]

/-- Settles O6: the step of a request is exec on the loaded state, which the two lemmas about `State.load` write out. -/
theorem stepRunsTheDecodedRequest : Obligations.StepRunsTheDecodedRequest := by
  intro s r rest i hr hb hd
  have hstep : step s = exec i (s.load r i rest) := step_request hr hb hd
  constructor
  · intro hns
    rw [hstep, load_eq_of_not_submit (submitOperands_eq_none hns)]
  · intro tag srcp dstp len cap hs
    rw [hstep, load_eq_of_submit (submitOperands_eq_some_iff.2 hs)]

end Sys2Proof.Machine
end

section
/-! PROOF. The part of a SUBMIT after its structural checks, the same for all four forms: which bytes it has for the span
that it fills (R111 to R116), and everything that it can leave in the state (R31, R112 to R115, R150 to R157). -/

namespace Sys2Proof.Machine

open Sys2Proof.Claims

/-! ## The bytes for the span -/

/-- The packed line of a sequence of samples is ceil(M/8) bytes long (R146 (a)). -/
theorem length_quantize (seq : List Byte) : (quantize seq).length = (seq.length + 7) / 8 := by
  have hcount := Quantizer.count_after seq
  have hlt := (Quantizer.after seq).accCnt.isLt
  unfold quantize Quantizer.flush
  split
  · next h => rw [h, BitVec.toNat_ofNat] at hcount; omega
  · next h =>
    have hpos : (Quantizer.after seq).accCnt.toNat ≠ 0 := fun h0 => h (BitVec.eq_of_toNat_eq h0)
    rw [List.length_append, List.length_singleton]
    omega

/-- The length in bytes of the span that a record fills: the destination, or in an RGB session a plane (R114). -/
def State.spanLen (s : State) (cap : Word) : Nat := if s.mode = .rgb24 then s.n.toNat else cap.toNat

/-- Samples as bytes of the span: packed in a Monochrome session, themselves in the others (R112, R113, R115). -/
def State.toSpan (s : State) (seq : List Byte) : List Byte := if s.mode = .mono1 then quantize seq else seq

/-- No more samples than the capacity of R111 give no more bytes than the span has. -/
theorem length_toSpan_le {s : State} {seq : List Byte} {cap : Word} (h : seq.length ≤ s.sampleCap cap) :
    (s.toSpan seq).length ≤ s.spanLen cap := by
  cases hm : s.mode <;> simp only [State.sampleCap, hm] at h <;>
    simp only [State.toSpan, State.spanLen, hm, reduceCtorEq, if_true, if_false, length_quantize] <;> omega

/-- What a SUBMIT has for its span; any other instruction has nothing. -/
def spanBytes (i : Instr) (s : State) : List Byte :=
  match i with
  | .submitRaw _ _ _ len cap => s.toSpan (rawSamples s.src len (s.sampleCap cap))
  | .submitFill _ _ _ _ cap => whiteSamples (s.spanLen cap)
  | .submitPackBits _ _ _ len cap => s.toSpan (packBitsSamples s.src len (s.sampleCap cap))
  | .submitUnknown _ _ _ _ len cap => s.toSpan (rawSamples s.src len (s.sampleCap cap))
  | _ => []

theorem length_spanBytes_le {i : Instr} {tag : PlaneTag} {srcp dstp : Bool} {len cap : Word}
    (hi : IsSubmit i tag srcp dstp len cap) (s : State) : (spanBytes i s).length ≤ s.spanLen cap := by
  rcases hi with rfl | rfl | rfl | ⟨comp, rfl⟩
  · exact length_toSpan_le (by simp)
  · exact (length_whiteSamples _).le
  · exact length_toSpan_le (length_packBitsSamples_le ..)
  · exact length_toSpan_le (by simp)

/-! ## Routing, whatever the form -/

/-- The bytes for a span go to the plane assembler in an RGB session, to the destination in the others (R177). -/
def route (tag : PlaneTag) (cap : Word) (bytes : List Byte) (s : State) : Result :=
  if s.mode = .rgb24 then assemble tag bytes cap s else .next (emitLine bytes s)

theorem deliver_eq_route (seq : List Byte) (tag : PlaneTag) (cap : Word) (s : State) :
    deliver seq tag cap s = route tag cap (s.toSpan seq) s := by
  cases hm : s.mode
  · rw [deliver_mono hm]; simp [route, State.toSpan, hm]
  · rw [deliver_gray hm]; simp [route, State.toSpan, hm]
  · rw [deliver_rgb hm]; simp [route, State.toSpan, hm]

theorem deliverFill_eq_route (tag : PlaneTag) (cap : Word) (s : State) :
    deliverFill tag cap s = route tag cap (whiteSamples (s.spanLen cap)) s := by
  by_cases hm : s.mode = .rgb24
  · rw [deliverFill_rgb hm]; simp [route, State.spanLen, hm]
  · rw [deliverFill_line hm]; simp [route, State.spanLen, hm]

/-- Every form of SUBMIT is the shared checks and the routing of its bytes. A WhiteFill reaches no source byte (R116). -/
theorem exec_submit {i : Instr} {tag : PlaneTag} {srcp dstp : Bool} {len cap : Word}
    (hi : IsSubmit i tag srcp dstp len cap) :
    ∃ reach : Word, reach.toNat ≤ len.toNat ∧
      ∀ s, exec i s = submit srcp dstp reach cap (fun t => route tag cap (spanBytes i t) t) s := by
  rcases hi with rfl | rfl | rfl | ⟨comp, rfl⟩
  · exact ⟨len, le_rfl, fun s => by simp only [exec, execSubmitRaw, deliver_eq_route, spanBytes]⟩
  · exact ⟨0#32, Nat.zero_le _, fun s => by simp only [exec, execSubmitFill, deliverFill_eq_route, spanBytes]⟩
  · exact ⟨len, le_rfl, fun s => by simp only [exec, execSubmitPackBits, deliver_eq_route, spanBytes]⟩
  · exact ⟨len, le_rfl, fun s => by simp only [exec, execSubmitUnknown, deliver_eq_route, spanBytes]⟩

/-! ## What a SUBMIT can leave -/

/-- Everything that a SUBMIT of capacity `cap` can leave: new row flags and planes, `bytes` written from destination offset
0 on, and an answer that reports their number. Outside RGB sessions flags and planes stay; allocated planes stay allocated,
and what a plane takes is within its N bytes. -/
inductive SubmitEffect (cap : Word) (s : State) : State → Prop
  | intro (rf gf : Bool) (planes : Option Planes) (bytes : List Byte) (status : Status)
      (hcap : bytes.length ≤ cap.toNat) (hdst : bytes.length ≤ s.dst.size)
      (hrow : s.mode ≠ .rgb24 → rf = s.rf ∧ gf = s.gf ∧ planes = s.planes)
      (hsome : s.planes.isSome → planes.isSome)
      (hok : (∀ ps, s.planes = some ps → ps.ok s.n) → ∀ ps, planes = some ps → ps.ok s.n) :
      SubmitEffect cap s { s with
        rf := rf, gf := gf, planes := planes, dst := s.dst.writeBytes 0 bytes
        response := some { status := status, word1 := BitVec.ofNat 32 bytes.length, word2 := 0#32 } }

/-- An answer with no byte emitted, FAULT say, is such an effect. -/
theorem SubmitEffect.of_answer (cap : Word) (s : State) (status : Status) :
    SubmitEffect cap s (s.respond status 0#32 0#32) :=
  .intro s.rf s.gf s.planes [] status (Nat.zero_le _) (Nat.zero_le _) (fun _ => ⟨rfl, rfl, rfl⟩) id id

/-- So is a line of at most C bytes. -/
theorem SubmitEffect.of_line {cap : Word} {s : State} {bytes : List Byte} (hcap : bytes.length ≤ cap.toNat)
    (hdst : cap.toNat ≤ s.dst.size) : SubmitEffect cap s (emitLine bytes s) :=
  .intro s.rf s.gf s.planes bytes .emitted hcap (hcap.trans hdst) (fun _ => ⟨rfl, rfl, rfl⟩) id id

/-- A record of at most N samples keeps the planes canonical and within their N bytes (R115). -/
theorem planeSink_ok {ps : Planes} {n : BitVec 16} (h : ps.ok n) {seq : List Byte} (hseq : seq.length ≤ n.toNat)
    (p : Plane) : (planeSink p seq ps).ok n := by
  intro q
  obtain ⟨hwf, hbound⟩ := h q
  by_cases hq : q = p
  · subst hq
    rw [planeSink, Planes.get_set_self]
    exact ⟨Memory.wf_writeBytes hwf 0 seq, Memory.bound_writeBytes hbound 0 seq (by omega)⟩
  · rw [planeSink_other hq]
    exact ⟨hwf, hbound⟩

/-- A record that its plane takes, with the row that it may complete in `bytes`, is such an effect. -/
theorem SubmitEffect.of_record {cap : Word} {s : State} {ps : Planes} {seq bytes : List Byte} (hm : s.mode = .rgb24)
    (hps : s.planes = some ps) (hseq : seq.length ≤ s.n.toNat) (hcap : bytes.length ≤ cap.toNat)
    (hdst : cap.toNat ≤ s.dst.size) (p : Plane) (rf gf : Bool) (status : Status) :
    SubmitEffect cap s { s with
      rf := rf, gf := gf, planes := some (planeSink p seq ps), dst := s.dst.writeBytes 0 bytes
      response := some { status := status, word1 := BitVec.ofNat 32 bytes.length, word2 := 0#32 } } := by
  refine .intro rf gf _ bytes status hcap (hcap.trans hdst) (absurd hm) (fun _ => rfl) (fun hok ps' hps' => ?_)
  cases hps'
  exact planeSink_ok (hok ps hps) hseq p

theorem length_interleave_rowPixels_le (ps : Planes) (n : BitVec 16) (cap : Word) :
    (interleave ps 0 (rowPixels n cap)).length ≤ cap.toNat := by
  rw [length_interleave, rowPixels]
  omega

/-- The row is partial or complete (R29). -/
theorem State.row_cases (s : State) : (s.rf = false ∨ s.gf = false) ∨ (s.rf = true ∧ s.gf = true) := by
  cases s.rf <;> cases s.gf <;> simp

/-- The plane assembler leaves such an effect (R150). -/
theorem assemble_effect {tag : PlaneTag} {seq : List Byte} {cap : Word} {s t : State} (hm : s.mode = .rgb24)
    (hseq : seq.length ≤ s.n.toNat) (hdst : cap.toNat ≤ s.dst.size) (h : assemble tag seq cap s = .next t) :
    SubmitEffect cap s t := by
  rcases assemble_next h with ⟨-, rfl⟩ | ⟨ps, hps, ⟨-, rfl⟩ | ⟨-, rfl⟩ | ⟨-, rfl⟩⟩
  · exact .of_answer cap s .buffered
  · exact .of_record (bytes := []) hm hps hseq (Nat.zero_le _) hdst .red true s.gf .buffered
  · exact .of_record (bytes := []) hm hps hseq (Nat.zero_le _) hdst .green s.rf true .buffered
  · rcases s.row_cases with hrow | ⟨hr, hg⟩
    · rw [assembleBlue_partial hrow]
      exact .of_record (bytes := []) hm hps hseq (Nat.zero_le _) hdst .blue false false .buffered
    · rw [assembleBlue_complete hr hg]
      exact .of_record hm hps hseq (length_interleave_rowPixels_le ..) hdst .blue false false .emitted

/-- So does the routing of bytes that fit the span. -/
theorem route_effect {tag : PlaneTag} {cap : Word} {bytes : List Byte} {s t : State}
    (hlen : bytes.length ≤ s.spanLen cap) (hdst : cap.toNat ≤ s.dst.size) (h : route tag cap bytes s = .next t) :
    SubmitEffect cap s t := by
  by_cases hm : s.mode = .rgb24
  · simp only [route, State.spanLen, hm, if_true] at h hlen
    exact assemble_effect hm hlen hdst h
  · simp only [route, State.spanLen, hm, if_false] at h hlen
    cases h
    exact .of_line hlen hdst

/-- So does the end of a PackBits SUBMIT that has kept to its capacity. -/
theorem deliver_effect {seq : List Byte} {tag : PlaneTag} {cap : Word} {s t : State}
    (hlen : seq.length ≤ s.sampleCap cap) (hdst : cap.toNat ≤ s.dst.size) (h : deliver seq tag cap s = .next t) :
    SubmitEffect cap s t := by
  rw [deliver_eq_route] at h
  exact route_effect (length_toSpan_le hlen) hdst h

/-- So does a SUBMIT of any form. -/
theorem exec_submit_effect {i : Instr} {tag : PlaneTag} {srcp dstp : Bool} {len cap : Word} {s t : State}
    (hi : IsSubmit i tag srcp dstp len cap) (h : exec i s = .next t) : SubmitEffect cap s t := by
  obtain ⟨reach, -, hexec⟩ := exec_submit hi
  rw [hexec] at h
  rcases (submit_next h).2 with ⟨rfl, -⟩ | ⟨-, -, -, ⟨-, -, -, hdst⟩, hroute⟩
  · exact .of_answer cap s .fault
  · exact route_effect (length_spanBytes_le hi s) hdst hroute

end Sys2Proof.Machine
end

section
/-! PROOF. The invariant of R34 with the canonical form of every memory: the reset state meets it, and every step keeps
it. -/

namespace Sys2Proof.Machine

open Sys2Proof.Claims

/-! ## Without an open session -/

/-- Between operations and with the session cleared, all that is left of the invariant is PLANE_DEPTH and the windows. -/
theorem State.Inv.of_cleared {s : State} (hdepth : 1 ≤ s.cfg.planeDepth) (hlc : s.lc ≠ .opened)
    (hclear : s.mode = .mono1 ∧ s.n = 0#16 ∧ s.align = false ∧ s.bpl = 0#32 ∧ s.maxbuf = 0#32 ∧
      s.rf = false ∧ s.gf = false ∧ s.planes = none)
    (hrun : s.run = none) (hsrc : s.src.wf) (hdst : s.dst.wf) (hinbox : ∀ e ∈ s.inbox, e.wf) : s.Inv where
  depth_pos := hdepth
  closed_is_cleared _ := hclear
  open_has_pixels ho := absurd ho hlc
  open_has_bpl ho := absurd ho hlc
  open_has_maxbuf ho := absurd ho hlc
  not_rgb ho := absurd ho hlc
  rgb ho := absurd ho hlc
  planes_ok ps hps := by
    obtain ⟨-, -, -, -, -, -, -, hnone⟩ := hclear
    rw [hnone] at hps; cases hps
  run_ok u hu := by rw [hrun] at hu; cases hu
  src_wf := hsrc
  dst_wf := hdst
  inbox_wf := hinbox

/-- Settles O12: a cleared session, no operation, windows and inbox empty. -/
theorem resetMeetsTheInvariant : Obligations.ResetMeetsTheInvariant :=
  .of_cleared (by decide) nofun (by decide) rfl (by decide) (by decide) nofun

theorem State.Inv.hardReset {s : State} (h : s.Inv) : s.hardReset.Inv :=
  .of_cleared h.depth_pos nofun ⟨rfl, rfl, rfl, rfl, rfl, rfl, rfl, rfl⟩ rfl h.src_wf h.dst_wf h.inbox_wf

theorem State.Inv.clearSession {s : State} (h : s.Inv) (hrun : s.run = none) : s.clearSession.Inv :=
  .of_cleared h.depth_pos nofun ⟨rfl, rfl, rfl, rfl, rfl, rfl, rfl, rfl⟩ hrun h.src_wf h.dst_wf h.inbox_wf

/-! ## The host's side -/

theorem Request.wf_srcFor {r : Request} (h : r.src.wf) (i : Instr) : (r.srcFor i).wf := by
  unfold Request.srcFor
  split
  · exact Window.wf_cut h _
  · exact h

theorem Request.wf_dstFor {r : Request} (h : r.dst.wf) (i : Instr) : (r.dstFor i).wf := by
  unfold Request.dstFor
  split
  · exact Window.wf_cut h _
  · exact h

theorem State.Inv.dropEvent {s : State} (h : s.Inv) {e : HostEvent} {rest : List HostEvent} (hb : s.inbox = e :: rest) :
    State.Inv { s with inbox := rest } :=
  { h with inbox_wf := fun e' he' => h.inbox_wf e' (hb ▸ List.mem_cons_of_mem e he') }

/-- Taking up a request between operations keeps the invariant: its windows are canonical. -/
theorem State.Inv.load {s : State} (h : s.Inv) (hrun : s.run = none) {e : HostEvent} {r : Request}
    {rest : List HostEvent} (hb : s.inbox = e :: rest) (hsrc : r.src.wf) (hdst : r.dst.wf) (i : Instr) :
    (s.load r i rest).Inv :=
  { h.dropEvent hb with
    run_ok := fun u hu => by rw [State.load_run, hrun] at hu; cases hu
    src_wf := Request.wf_srcFor hsrc i
    dst_wf := Request.wf_dstFor hdst i }

/-! ## Answers and effects -/

/-- What a SUBMIT can leave keeps the invariant. -/
theorem SubmitEffect.inv {cap : Word} {s t : State} (he : SubmitEffect cap s t) (h : s.Inv) : t.Inv := by
  obtain ⟨rf, gf, planes, bytes, status, -, hdst, hrow, hsome, hok⟩ := he
  exact { h with
    closed_is_cleared := fun hl => by
      obtain ⟨hm, hn, ha, hb, hx, hrf, hgf, hps⟩ := h.closed_is_cleared hl
      obtain ⟨rfl, rfl, rfl⟩ := hrow (by rw [hm]; nofun)
      exact ⟨hm, hn, ha, hb, hx, hrf, hgf, hps⟩
    not_rgb := fun hl hm => by
      obtain ⟨rfl, rfl, rfl⟩ := hrow hm
      exact h.not_rgb hl hm
    rgb := fun hl hm => (h.rgb hl hm).imp_right hsome
    planes_ok := hok h.planes_ok
    dst_wf := Window.wf_writeBytes h.dst_wf 0 bytes (by omega) }

/-- So does an answer. -/
theorem State.Inv.respond {s : State} (h : s.Inv) (status : Status) (w1 w2 : Word) : (s.respond status w1 w2).Inv :=
  { h with }

/-! ## Opening a session -/

theorem Planes.ok_zeroed (n : BitVec 16) : Planes.zeroed.ok n := fun p => by
  cases p <;> exact ⟨Memory.wf_nil, nofun⟩

/-- A session of a valid layout, with zeroed planes exactly in RGB (R172, R173), meets the invariant. -/
theorem State.Inv.install {s : State} (h : s.Inv) (hrun : s.run = none) {mode : ModeField} {n : BitVec 16} {align : Bool}
    {g : Layout} (hg : geometry mode n align = some g) {planes : Option Planes}
    (hrgb : g.emode = .rgb24 → n.toNat ≤ s.cfg.planeDepth ∧ planes.isSome) (hother : g.emode ≠ .rgb24 → planes = none)
    (hzero : ∀ ps, planes = some ps → ps = Planes.zeroed) : (s.install g n align planes).Inv := by
  obtain ⟨-, hpos, hmode, hbpl, hmax⟩ := geometry_some hg
  rw [← hmode] at hbpl
  exact { h with
    closed_is_cleared := fun hl => absurd rfl hl
    open_has_pixels := fun _ => hpos
    open_has_bpl := fun _ => hbpl
    open_has_maxbuf := fun _ => hmax
    not_rgb := fun _ hm => ⟨rfl, rfl, hother hm⟩
    rgb := fun _ => hrgb
    planes_ok := fun ps hps => hzero ps hps ▸ Planes.ok_zeroed n
    run_ok := fun u hu => by rw [State.install_run, hrun] at hu; cases hu }

theorem effectiveMode_eq_rgb24 {m : ModeField} : effectiveMode m = .rgb24 ↔ m = .rgb24 := by
  cases m <;> simp [effectiveMode]

/-- OPEN keeps the invariant, whether it opens a session or fails (R172, R174). -/
theorem execOpen_inv {mode : ModeField} {n : BitVec 16} {align : Bool} {s t : State} (h : s.Inv) (hrun : s.run = none)
    (hopen : execOpen mode n align s = .next t) : t.Inv := by
  rcases open_next hopen with ⟨-, rfl⟩ | ⟨-, -, rfl⟩ | ⟨g, hg, hcase⟩
  · exact (h.clearSession hrun).respond ..
  · exact (h.clearSession hrun).respond ..
  · obtain ⟨-, -, hmode, -, -⟩ := geometry_some hg
    have hiff : g.emode = .rgb24 ↔ mode = .rgb24 := hmode ▸ effectiveMode_eq_rgb24
    rcases hcase with ⟨hm, hfit, rfl⟩ | ⟨hm, rfl⟩
    · exact (h.install hrun hg (fun _ => ⟨hfit, rfl⟩) (fun hne => absurd (hiff.2 hm) hne)
        (fun ps hps => (Option.some.inj hps).symm)).respond ..
    · exact (h.install hrun hg (fun he => absurd (hiff.1 he) hm) (fun _ => rfl) nofun).respond ..

/-! ## Steps -/

/-- Between operations every instruction keeps the invariant. -/
theorem exec_inv {i : Instr} {s t : State} (h : s.Inv) (hrun : s.run = none) (hexec : exec i s = .next t) : t.Inv := by
  cases i with
  | openSession mode n align => exact execOpen_inv h hrun hexec
  | submitRaw tag srcp dstp len cap => exact (exec_submit_effect (.inl rfl) hexec).inv h
  | submitFill tag srcp dstp len cap => exact (exec_submit_effect (.inr (.inl rfl)) hexec).inv h
  | submitPackBits tag srcp dstp len cap => exact (exec_submit_effect (.inr (.inr (.inl rfl))) hexec).inv h
  | submitUnknown comp tag srcp dstp len cap =>
    exact (exec_submit_effect (.inr (.inr (.inr ⟨comp, rfl⟩))) hexec).inv h
  | close => cases hexec; exact (h.clearSession hrun).respond ..
  | illegal header => cases hexec; exact h.respond ..
  | pbNop => exact absurd hexec (onRun_ne_next hrun)
  | pbLit count => exact absurd hexec (onRun_ne_next hrun)
  | pbRep low => exact absurd hexec (onRun_ne_next hrun)

@[simp] theorem length_freeBytes (k count : Nat) : (freeBytes k count).length = count := by
  induction count generalizing k with
  | zero => rfl
  | succ c ih => rw [freeBytes, List.length_cons, ih]

/-- Free bytes within the destination keep the invariant. -/
theorem State.Inv.scrambleDst {s : State} (h : s.Inv) {count : Nat} (hc : count ≤ s.dst.size) :
    (s.scrambleDst count).Inv :=
  { h with dst_wf := Window.wf_writeBytes h.dst_wf 0 _ (by rwa [length_freeBytes, Nat.zero_add]) }

/-- An abandoned operation leaves the invariant (R230). -/
theorem abandon_inv {i : Instr} {s t : State} (h : s.Inv) (habandon : s.abandon i = .next t) : t.Inv := by
  rcases abandon_next habandon with rfl | ⟨o, -, -, ⟨-, -, -, hdst⟩, -, rfl⟩
  · exact h.hardReset
  · exact h.hardReset.scrambleDst hdst

/-- The samples of a run in progress are delivered with its registers gone. -/
theorem State.Inv.endRun {s : State} (h : s.Inv) : s.endRun.Inv := { h with run_ok := nofun }

/-- A token keeps what the invariant says of the run in progress (R124). -/
theorem State.Inv.token {s : State} (h : s.Inv) {u : PbRun} (hu : s.run = some u) :
    (s.setRun (u.token s.src)).Inv :=
  { h with
    run_ok := fun u' hu' => by
      cases Option.some.inj hu'
      obtain ⟨hl, hcap, hout, hoverlap, hshort, hsrc, hdst⟩ := h.run_ok u hu
      obtain ⟨-, hlen', hdst', hcap', -, hout'⟩ := u.token_frame s.src
      rw [hlen', hdst', hcap']
      exact ⟨hl, hcap, hout' hout, hoverlap, hshort, hsrc, hdst⟩ }

/-- Settles O13, by the cases of a step: the end of a PackBits SUBMIT and one of its tokens, idle, a request, a reset, a
request interrupted by one. -/
theorem stepKeepsTheInvariant : Obligations.StepKeepsTheInvariant := by
  intro s t h hstep
  rcases step_next hstep with ⟨u, hu, ⟨-, -, -, hdst⟩, -, hdeliver⟩ | ⟨u, hu, -, -, rfl⟩ | ⟨-, -, rfl⟩ |
    ⟨r, rest, i, hr, hb, -, hexec⟩ | ⟨rest, -, hb, rfl⟩ | ⟨r, rest, i, hr, hb, -, habandon⟩
  · obtain ⟨-, hcap, hout, -⟩ := h.run_ok u hu
    exact (deliver_effect (s := s.endRun) (hcap ▸ hout) hdst hdeliver).inv h.endRun
  · exact h.token hu
  · exact h
  · obtain ⟨hsrc, hdst⟩ : r.src.wf ∧ r.dst.wf := h.inbox_wf (.request r) (by simp [hb])
    exact exec_inv (h.load hr hb hsrc hdst i) hr hexec
  · exact (h.dropEvent hb).hardReset
  · obtain ⟨hsrc, hdst⟩ : r.src.wf ∧ r.dst.wf := h.inbox_wf (.resetDuring r) (by simp [hb])
    exact abandon_inv (h.load hr hb hsrc hdst i) habandon

end Sys2Proof.Machine
end

section
/-! PROOF. Where every step answers a next state (R30, R203, R204, R214): what the host's duties and the invariant give
each operation. -/

namespace Sys2Proof.Machine

open Sys2Proof.Claims

/-! ## Operations that answer -/

/-- With its planes allocated an RGB session takes every record, and the other modes need none (R30). -/
theorem route_total {s : State} (h : s.mode = .rgb24 → s.planes.isSome) (tag : PlaneTag) (cap : Word)
    (bytes : List Byte) : ∃ t, route tag cap bytes s = .next t := by
  by_cases hm : s.mode = .rgb24
  · obtain ⟨ps, hps⟩ := Option.isSome_iff_exists.1 (h hm)
    exact ⟨_, by rw [route, if_pos hm, assemble_allocated hps]⟩
  · exact ⟨_, by rw [route, if_neg hm]⟩

theorem deliver_total {s : State} (h : s.mode = .rgb24 → s.planes.isSome) (seq : List Byte) (tag : PlaneTag)
    (cap : Word) : ∃ t, deliver seq tag cap s = .next t := by
  rw [deliver_eq_route]
  exact route_total h ..

/-- Where the duties are kept a SUBMIT answers if its own part does in an open session. -/
theorem submit_total {srcp dstp : Bool} {len cap : Word} {body : State → Result} {s : State}
    (hd : s.dutiesKept srcp dstp len cap) (hbody : s.lc = .opened → ∃ t, body s = .next t) :
    ∃ t, submit srcp dstp len cap body s = .next t := by
  rw [submit, onWindows_kept hd]
  split
  · exact ⟨_, rfl⟩
  · next hl =>
    split
    · exact ⟨_, rfl⟩
    · exact hbody (not_not.1 hl)

/-- A SUBMIT that reaches fewer source bytes asks no more of the host. -/
theorem dutiesKept_mono {s : State} {srcp dstp : Bool} {reach len cap : Word} (hle : reach.toNat ≤ len.toNat)
    (h : s.dutiesKept srcp dstp len cap) : s.dutiesKept srcp dstp reach cap := by
  obtain ⟨hoverlap, hshort, hsrc, hdst⟩ := h
  exact ⟨hoverlap, hshort, fun hp => hle.trans (hsrc hp), hdst⟩

theorem exec_submit_total {i : Instr} {tag : PlaneTag} {srcp dstp : Bool} {len cap : Word} {s : State}
    (hi : IsSubmit i tag srcp dstp len cap) (hd : s.dutiesKept srcp dstp len cap)
    (hplanes : s.lc = .opened → s.mode = .rgb24 → s.planes.isSome) : ∃ t, exec i s = .next t := by
  obtain ⟨reach, hle, hexec⟩ := exec_submit hi
  rw [hexec]
  exact submit_total (dutiesKept_mono hle hd) fun hl => route_total (hplanes hl) ..

/-- Every request answers where the host has kept its duties and an RGB session has its planes. -/
theorem exec_total {i : Instr} {s : State} (hreq : i.isRequest = true)
    (hd : ∀ o, submitOperands i = some o → s.dutiesKept o.srcp o.dstp o.len o.cap)
    (hplanes : s.lc = .opened → s.mode = .rgb24 → s.planes.isSome) : ∃ t, exec i s = .next t := by
  cases ho : submitOperands i with
  | some o => exact exec_submit_total (submitOperands_eq_some_iff.1 ho) (hd o ho) hplanes
  | none =>
    cases i with
    | openSession mode n align => exact open_total mode n align s
    | close => exact ⟨_, rfl⟩
    | illegal header => exact ⟨_, rfl⟩
    | submitRaw | submitFill | submitPackBits | submitUnknown => cases ho
    | pbNop | pbLit | pbRep => cases hreq

/-- An abandoned request always leaves the reset state where the host has kept its duties (R230). -/
theorem abandon_total {i : Instr} {s : State}
    (hd : ∀ o, submitOperands i = some o → s.dutiesKept o.srcp o.dstp o.len o.cap) : ∃ t, s.abandon i = .next t := by
  unfold State.abandon
  split
  · exact ⟨_, rfl⟩
  · next o ho => exact ⟨_, onWindows_kept (hd o ho) _⟩

/-! ## The duties of the host and the steps of its events -/

/-- The duties that a host keeps in a SUBMIT request are those that the SUBMIT asks of the windows it finds. -/
theorem dutiesKept_load {r : Request} {i : Instr} {o : SubmitOperands} (ho : submitOperands i = some o)
    (hoverlap : o.srcp = true → o.dstp = true → r.overlap = false) (hsrc : o.srcp = true → o.len.toNat ≤ r.src.size)
    (hdst : o.dstp = true → o.cap.toNat ≤ r.dst.size) (s : State) (rest : List HostEvent) :
    (s.load r i rest).dutiesKept o.srcp o.dstp o.len o.cap := by
  rw [load_eq_of_submit ho]
  refine ⟨hoverlap, decide_eq_false ?_, fun hp => ?_, fun hp => ?_⟩
  · rintro (⟨hp, hlt⟩ | ⟨hp, hlt⟩)
    · exact hlt.not_ge (hsrc hp)
    · exact hlt.not_ge (hdst hp)
  · exact le_min (hsrc hp) le_rfl
  · exact le_min (hdst hp) le_rfl

/-- A dutiful request decodes, and its windows are what its instruction asks for, wherever it is taken up. -/
theorem Request.dutiful_load {r : Request} (h : r.dutiful) :
    ∃ i, decodeRequest r.words = .ok i ∧ ∀ (s : State) (rest : List HostEvent) (o : SubmitOperands),
      submitOperands i = some o → (s.load r i rest).dutiesKept o.srcp o.dstp o.len o.cap := by
  obtain ⟨i, hd, hduties⟩ := h
  refine ⟨i, hd, fun s rest o ho => ?_⟩
  obtain ⟨hoverlap, hsrc, hdst⟩ := hduties o ho
  exact dutiesKept_load ho hoverlap hsrc hdst s rest

theorem step_idle {s : State} (hr : s.run = none) (hb : s.inbox = []) : step s = .next s := by
  simp only [step, hr, hb]

theorem step_reset {s : State} {rest : List HostEvent} (hr : s.run = none) (hb : s.inbox = .reset :: rest) :
    step s = .next (State.hardReset { s with inbox := rest }) := by
  simp only [step, hr, hb]

/-- A PackBits SUBMIT in progress goes on: the invariant keeps its windows in order, and its session has its planes. -/
theorem step_run_total {s : State} (h : s.Inv) {u : PbRun} (hu : s.run = some u) : ∃ t, step s = .next t := by
  obtain ⟨hl, -, -, hoverlap, hshort, hsrc, hdst⟩ := h.run_ok u hu
  have hw : s.windowsOk u.srcLen u.dstCap := ⟨hoverlap, hshort, hsrc.ge, hdst.ge⟩
  cases he : u.exhausted with
  | true =>
    rw [step_finish hu he, onWindows_ok hw]
    exact deliver_total (s := s.endRun) (fun hm => (h.rgb hl hm).2) ..
  | false => exact ⟨_, by rw [step_token hu he, onWindows_ok hw]⟩

/-- Settles O14, by the cases of a step: a PackBits SUBMIT in progress, idle, a request, a reset, a request interrupted by
one. -/
theorem dutifulHostNeverStopsTheBlock : Obligations.DutifulHostNeverStopsTheBlock := by
  intro s h hduty
  cases hr : s.run with
  | some u => exact step_run_total h hr
  | none =>
    cases hb : s.inbox with
    | nil => exact ⟨s, step_idle hr hb⟩
    | cons e rest =>
      have he : e.dutiful := hduty e (by simp [hb])
      cases e with
      | request r =>
        obtain ⟨i, hd, hload⟩ := Request.dutiful_load he
        rw [Safe, step_request hr hb hd]
        exact exec_total (decodeRequest_isRequest hd) (hload s rest) fun hl hm => (h.rgb hl hm).2
      | reset => exact ⟨_, step_reset hr hb⟩
      | resetDuring r =>
        obtain ⟨i, hd, hload⟩ := Request.dutiful_load he
        rw [Safe, step_resetDuring hr hb hd]
        exact abandon_total (hload s rest)

end Sys2Proof.Machine
end

section
/-! PROOF. What a SUBMIT leaves alone, and what it does not depend on: the windows past L and C (R36, R65), the elements
that are constant within a session (R31, R32), the layout (R26, R27), and which of Unopened and Closed the block is in
(R232). -/

namespace Sys2Proof.Machine

open Sys2Proof.Claims

/-! ## The frame -/

/-- Settles O38: an effect of a SUBMIT is an update of these five fields. -/
theorem submitFrame : Obligations.SubmitFrame := by
  intro i tag srcp dstp len cap s t hi hexec
  obtain ⟨⟩ := exec_submit_effect hi hexec
  rfl

theorem Window.read_cut {w : Window} {k a : Nat} (hk : k ≤ w.size) (ha : a < k) : (w.cut k).read a = w.read a := by
  rw [Window.cut, min_eq_right hk, Window.read_resize, if_pos ha]

/-- Past the bytes that a SUBMIT reports the destination is as before (R52). -/
theorem SubmitEffect.read_dst {cap : Word} {s t : State} (he : SubmitEffect cap s t) {res : Response}
    (hres : t.response = some res) {a : Nat} (ha : res.word1.toNat ≤ a) : t.dst.read a = s.dst.read a := by
  obtain ⟨rf, gf, planes, bytes, status, hcap, -⟩ := he
  cases hres
  have hlen : bytes.length ≤ a := by
    rwa [BitVec.toNat_ofNat, Nat.mod_eq_of_lt (by omega)] at ha
  rw [Window.read_writeBytes_zero, List.getElem?_eq_none hlen, Option.getD_none]

/-- A SUBMIT keeps both windows' sizes, the source window whole, and the canonical form of the destination. -/
theorem SubmitEffect.windows {cap : Word} {s t : State} (he : SubmitEffect cap s t) :
    t.src = s.src ∧ t.dst.size = s.dst.size ∧ (s.dst.wf → t.dst.wf) := by
  obtain ⟨rf, gf, planes, bytes, status, -, hdst, -⟩ := he
  exact ⟨rfl, rfl, fun hwf => Window.wf_writeBytes hwf 0 bytes (by omega)⟩

/-- Settles O7: the step runs on the windows cut to L and C bytes, and leaves the source whole and the destination but for
the bytes that it reports. -/
theorem submitWindowsAreExactlyLAndC : Obligations.SubmitWindowsAreExactlyLAndC := by
  intro s t r rest i tag srcp dstp len cap hr hb hd hi hsrc hdst hlen hcap hstep
  rw [step_request hr hb hd, load_eq_of_submit (submitOperands_eq_some_iff.2 hi)] at hstep
  have he := exec_submit_effect hi hstep
  obtain ⟨hsrc', hsize', hwf'⟩ := he.windows
  refine ⟨?_, ?_, ?_, hwf' (Window.wf_cut hdst _), fun a ha => ?_, fun res hres a ha hac => ?_⟩
  · rw [hsrc']; exact min_eq_right hlen
  · rw [hsize']; exact min_eq_right hcap
  · rw [hsrc']; exact Window.wf_cut hsrc _
  · rw [hsrc']; exact Window.read_cut hlen ha
  · rw [he.read_dst hres ha]; exact Window.read_cut hcap hac

/-! ## Relations between two outcomes -/

section
variable {R : Result → Result → Prop} (hrefused : ∀ r, R (.refused r) (.refused r))
include hrefused

/-- A relation that keeps refusals passes through the check of the host's duties. -/
theorem onWindows_rel {s s' : State} {srcp dstp : Bool} {len cap : Word} {x x' : Result}
    (hunfit : s'.unfit srcp dstp len cap = s.unfit srcp dstp len cap) (hx : R x x') :
    R (s.onWindows srcp dstp len cap x) (s'.onWindows srcp dstp len cap x') := by
  unfold State.onWindows
  rw [hunfit]
  split
  · exact hrefused _
  · exact hx

/-- Through all the checks of a SUBMIT it passes where it holds of the FAULT and of the forms' own parts. -/
theorem submit_rel {s s' : State} {srcp dstp : Bool} {len cap : Word} {body : State → Result}
    (hunfit : s'.unfit srcp dstp len cap = s.unfit srcp dstp len cap) (hlc : s'.lc = s.lc)
    (hfault : R (.next (s.respond .fault 0#32 0#32)) (.next (s'.respond .fault 0#32 0#32)))
    (hbody : R (body s) (body s')) : R (submit srcp dstp len cap body s) (submit srcp dstp len cap body s') := by
  refine onWindows_rel hrefused hunfit ?_
  rw [hlc]
  split
  · exact hfault
  · split
    · exact hfault
    · exact hbody

end

/-! ## The layout -/

/-- The state with other values of ALIGN, BPL and MAXBUF. -/
def State.setLayout (s : State) (align : Bool) (bpl maxbuf : Word) : State :=
  { s with align := align, bpl := bpl, maxbuf := maxbuf }

/-- The bytes for the span come from the source window, MODE and N. -/
theorem spanBytes_setLayout (i : Instr) (s : State) (align : Bool) (bpl maxbuf : Word) :
    spanBytes i (s.setLayout align bpl maxbuf) = spanBytes i s := by
  cases i <;> rfl

theorem assembleBlue_setLayout (seq : List Byte) (cap : Word) (ps : Planes) (s : State) (align : Bool)
    (bpl maxbuf : Word) :
    assembleBlue seq cap ps (s.setLayout align bpl maxbuf) = (assembleBlue seq cap ps s).setLayout align bpl maxbuf := by
  rcases s.row_cases with hrow | ⟨hr, hg⟩
  · rw [assembleBlue_partial hrow, assembleBlue_partial (s := s.setLayout align bpl maxbuf) hrow]; rfl
  · rw [assembleBlue_complete hr hg, assembleBlue_complete (s := s.setLayout align bpl maxbuf) hr hg]; rfl

/-- A tagged record finds no plane where none is allocated (R30). -/
theorem assemble_unallocated {s : State} (h : s.planes = none) {tag : PlaneTag} (ht : tag ≠ .untagged)
    (seq : List Byte) (cap : Word) : assemble tag seq cap s = .fault .planesNotAllocated := by
  cases tag with
  | untagged => exact absurd rfl ht
  | red | green | blue => simp only [assemble, h]

theorem assemble_setLayout (tag : PlaneTag) (seq : List Byte) (cap : Word) (s : State) (align : Bool)
    (bpl maxbuf : Word) :
    SameButLayout align bpl maxbuf (assemble tag seq cap s) (assemble tag seq cap (s.setLayout align bpl maxbuf)) := by
  by_cases ht : tag = .untagged
  · subst ht; rfl
  · cases hps : s.planes with
    | none =>
      rw [assemble_unallocated hps ht, assemble_unallocated (s := s.setLayout align bpl maxbuf) hps ht]
      rfl
    | some ps =>
      rw [assemble_allocated hps, assemble_allocated (s := s.setLayout align bpl maxbuf) hps]
      cases tag with
      | untagged => exact absurd rfl ht
      | red => rfl
      | green => rfl
      | blue => exact assembleBlue_setLayout ..

theorem route_setLayout (tag : PlaneTag) (cap : Word) (bytes : List Byte) (s : State) (align : Bool)
    (bpl maxbuf : Word) :
    SameButLayout align bpl maxbuf (route tag cap bytes s) (route tag cap bytes (s.setLayout align bpl maxbuf)) := by
  by_cases hm : s.mode = .rgb24
  · rw [route, route, if_pos hm, if_pos (show (s.setLayout align bpl maxbuf).mode = .rgb24 from hm)]
    exact assemble_setLayout ..
  · rw [route, route, if_neg hm, if_neg (show (s.setLayout align bpl maxbuf).mode ≠ .rgb24 from hm)]
    rfl

/-- Settles O41: neither the checks nor the bytes nor the routing read the layout. -/
theorem submitIgnoresTheLayout : Obligations.SubmitIgnoresTheLayout := by
  intro i tag srcp dstp len cap s align bpl maxbuf hi
  obtain ⟨reach, -, hexec⟩ := exec_submit hi
  rw [hexec, hexec]
  refine submit_rel (R := SameButLayout align bpl maxbuf) (s' := s.setLayout align bpl maxbuf)
    (fun _ => rfl) rfl rfl rfl ?_
  rw [spanBytes_setLayout]
  exact route_setLayout ..

/-! ## Unopened and Closed -/

theorem sameButLc_refl (a : Result) : SameButLc a a := by
  cases a <;> rfl

/-- The duties of the host do not depend on LC, so neither do the refusals. -/
theorem onWindows_sameButLc {s : State} {lc : Lifecycle} {srcp dstp : Bool} {len cap : Word} {x x' : Result}
    (hx : SameButLc x x') :
    SameButLc (State.onWindows { s with lc := lc } srcp dstp len cap x) (s.onWindows srcp dstp len cap x') :=
  onWindows_rel (R := SameButLc) (s := { s with lc := lc }) (fun _ => rfl) rfl hx

/-- Without an open session a SUBMIT does the same whichever of the two lifecycles it finds: it answers FAULT (R201). -/
theorem submit_sameButLc {srcp dstp : Bool} {len cap : Word} {body : State → Result} {s : State} (h : s.lc = .closed) :
    SameButLc (submit srcp dstp len cap body { s with lc := .unopened }) (submit srcp dstp len cap body s) := by
  rw [submit_fault (.inl (by simp)), submit_fault (.inl (by simp [h]))]
  exact onWindows_sameButLc rfl

/-- A token does not look at LC. -/
theorem onRun_sameButLc (f : PbRun → PbRun) (s : State) (lc : Lifecycle) :
    SameButLc (onRun f { s with lc := lc }) (onRun f s) := by
  unfold onRun
  dsimp only
  split
  · exact onWindows_sameButLc rfl
  · rfl

/-- OPEN overwrites LC and does not look at it (R172). -/
theorem execOpen_lc (mode : ModeField) (n : BitVec 16) (align : Bool) (s : State) (lc : Lifecycle) :
    execOpen mode n align { s with lc := lc } = execOpen mode n align s := rfl

/-- Unopened and Closed are alike to every instruction (R232). -/
theorem exec_sameButLc (i : Instr) {s : State} (h : s.lc = .closed) :
    SameButLc (exec i { s with lc := .unopened }) (exec i s) := by
  cases i with
  | openSession mode n align =>
    simp only [exec, execOpen_lc]
    exact sameButLc_refl _
  | submitRaw | submitFill | submitPackBits | submitUnknown => exact submit_sameButLc h
  | close => rfl
  | illegal header => rfl
  | pbNop => exact onRun_sameButLc _ s _
  | pbLit count => exact onRun_sameButLc _ s _
  | pbRep low => exact onRun_sameButLc _ s _

/-- CLOSE leaves the reset state but for LC and its answer (R35, R171). -/
theorem clearSession_eq_hardReset {s : State} (hr : s.run = none) (status : Status) (w1 w2 : Word) :
    { s.clearSession.respond status w1 w2 with lc := .unopened, response := none } = s.hardReset := by
  simp only [State.clearSession, State.respond, State.hardReset, State.reset, hr]

/-- Settles O46, its two parts one by one. -/
theorem unopenedAndClosedBehaveAlike : Obligations.UnopenedAndClosedBehaveAlike := by
  refine ⟨fun s t hr hclose => ?_, fun i s h => exec_sameButLc i h⟩
  cases hclose
  exact clearSession_eq_hardReset hr ..

/-- Settles O11: power-on, the reset input, and CLOSE, one by one. -/
theorem resetStateHasTheResetValues : Obligations.ResetStateHasTheResetValues := by
  refine ⟨⟨⟨rfl, rfl, rfl, rfl, rfl, rfl, rfl, rfl, rfl⟩, rfl, rfl, rfl⟩, fun s t rest hr hb hstep => ?_, fun s => ?_⟩
  · rw [step_reset hr hb] at hstep
    cases hstep
    exact ⟨⟨rfl, rfl, rfl, rfl, rfl, rfl, rfl, rfl, rfl⟩, rfl⟩
  · exact ⟨_, rfl, rfl, rfl, rfl, rfl, rfl, rfl, rfl, rfl, rfl, rfl⟩

end Sys2Proof.Machine
end

section
/-! PROOF. PackBits tokens as steps (R33, R120, log 2): which step a token is, that there is none outside a PackBits
SUBMIT, and that the steps of one end where it ends as one operation. -/

namespace Sys2Proof.Machine

open Sys2Proof.Claims

/-- Settles O50: without the transient registers every token is refused. -/
theorem tokensOnlyInsideAPackBitsSubmit : Obligations.TokensOnlyInsideAPackBitsSubmit :=
  fun _ _ _ hr => ⟨onRun_none hr, onRun_none hr, onRun_none hr⟩

theorem PbRun.exhausted_eq_false {u : PbRun} : u.exhausted = false ↔ u.inPos < u.srcLen.toNat ∧ u.outCnt < u.cap := by
  simp [PbRun.exhausted]

/-- Settles O8: the step and exec of the decoded control byte are the same turn of the token machine. -/
theorem stepRunsTheDecodedToken : Obligations.StepRunsTheDecodedToken := by
  intro s u i hu hin hout hd
  obtain rfl : decodeControl (u.fetch s.src) = i := Except.ok.inj hd
  rw [step_token hu (PbRun.exhausted_eq_false.2 ⟨hin, hout⟩), exec_decodeControl hu]

/-! ## The token machine does not look at the operands that only its end uses -/

/-- The run of another tag and another capacity C. -/
def PbRun.retag (u : PbRun) (tag : PlaneTag) (dstCap : Word) : PbRun := { u with tag := tag, dstCap := dstCap }

theorem PbRun.token_retag (u : PbRun) (src : Window) (tag : PlaneTag) (dstCap : Word) :
    (u.retag tag dstCap).token src = (u.token src).retag tag dstCap := by
  have hfetch : (u.retag tag dstCap).fetch src = u.fetch src := rfl
  simp only [PbRun.token, hfetch]
  split
  · rfl
  · split <;> rfl

theorem PbRun.drain_retag (fuel : Nat) (src : Window) (u : PbRun) (tag : PlaneTag) (dstCap : Word) :
    PbRun.drain fuel src (u.retag tag dstCap) = (PbRun.drain fuel src u).retag tag dstCap := by
  induction fuel generalizing u with
  | zero => rfl
  | succ f ih =>
    have hex : (u.retag tag dstCap).exhausted = u.exhausted := rfl
    simp only [PbRun.drain, hex, PbRun.token_retag, ih]
    split <;> rfl

/-- So the samples of a SUBMIT are those of its own run. -/
theorem drain_start_out (src : Window) (tag : PlaneTag) (len cap : Word) (k : Nat) :
    (PbRun.drain len.toNat src (PbRun.start tag len cap k)).out = packBitsSamples src len k := by
  have hstart : PbRun.start tag len cap k = (PbRun.start .untagged len 0#32 k).retag tag cap := rfl
  rw [hstart, PbRun.drain_retag]
  rfl

/-! ## The run of tokens -/

theorem core_run_succ {s s' : State} (h : step s = .next s') (k : Nat) : core.run (k + 1) s = core.run k s' := by
  have hcore : core.step s = .next s' := h
  simp only [Host.Core.run, hcore]

theorem PbRun.drain_exhausted {u : PbRun} (h : u.exhausted = true) (fuel : Nat) (src : Window) :
    PbRun.drain fuel src u = u := by
  cases fuel with
  | zero => rfl
  | succ f => rw [PbRun.drain, if_pos h]

/-- With no byte left to read the tokens are exhausted, whatever the capacity (R124). -/
theorem PbRun.exhausted_of_sub_le {u : PbRun} (h : u.srcLen.toNat - u.inPos ≤ 0) : u.exhausted = true := by
  simp only [PbRun.exhausted, Bool.or_eq_true, decide_eq_true_eq]
  omega

/-- An exhausted run takes one step to its answer. -/
theorem run_finish {s t : State} {u : PbRun} (hu : s.run = some u) (hw : s.windowsOk u.srcLen u.dstCap)
    (he : u.exhausted = true) (ht : deliver u.out u.tag u.dstCap s.endRun = .next t) : core.run 1 s = .next t :=
  core_run_succ (by rw [step_finish hu he, onWindows_ok hw, ht]) 0

/-- From a run in progress the steps drain it, one turn each, and then deliver its samples; every turn advances `in_pos`
(R124), so the bytes that remain bound their number. -/
theorem run_drains (fuel : Nat) {s t : State} {u : PbRun} (hu : s.run = some u) (hw : s.windowsOk u.srcLen u.dstCap)
    (hfuel : u.srcLen.toNat - u.inPos ≤ fuel)
    (ht : deliver (PbRun.drain fuel s.src u).out u.tag u.dstCap s.endRun = .next t) :
    ∃ k, k ≤ fuel + 1 ∧ core.run k s = .next t := by
  induction fuel generalizing s u with
  | zero => exact ⟨1, le_rfl, run_finish hu hw (PbRun.exhausted_of_sub_le hfuel) ht⟩
  | succ f ih =>
    cases he : u.exhausted with
    | true =>
      rw [PbRun.drain_exhausted he] at ht
      exact ⟨1, by omega, run_finish hu hw he ht⟩
    | false =>
      obtain ⟨htag, hlen, hcap, -, hpos, -⟩ := u.token_frame s.src
      rw [PbRun.drain, he, if_neg Bool.false_ne_true] at ht
      obtain ⟨k, hk, hrun⟩ := ih (s := s.setRun (u.token s.src)) (State.setRun_run ..) (by rw [hlen, hcap]; exact hw)
        (by rw [hlen]; omega) (by rw [htag, hcap]; exact ht)
      have hstep : step s = .next (s.setRun (u.token s.src)) := by rw [step_token hu he, onWindows_ok hw]
      exact ⟨k + 1, by omega, (core_run_succ hstep k).trans hrun⟩

theorem endRun_setRun {s : State} (hr : s.run = none) (u : PbRun) : (s.setRun u).endRun = s := by
  simp only [State.setRun, State.endRun, ← hr]

/-- Settles O52: the run drains its tokens from the first one on, and what it delivers is what the indivisible SUBMIT
delivers on the same state. -/
theorem tokenByTokenRunIsTheSubmit : Obligations.TokenByTokenRunIsTheSubmit := by
  intro s tag len cap hr hl hw hplanes
  obtain ⟨t, ht⟩ := deliver_total (s := s) (fun hm => Option.isSome_iff_ne_none.2 (hplanes hm))
    (packBitsSamples s.src len (s.sampleCap cap)) tag cap
  have hexec : exec (.submitPackBits tag true true len cap) s = .next t := (submit_body hl hw).trans ht
  obtain ⟨k, hk, hrun⟩ := run_drains len.toNat (s := s.beginPackBits tag len cap) (t := t) (State.setRun_run ..) hw
    (Nat.sub_le ..) (by
      rw [State.beginPackBits, State.setRun_src, drain_start_out, endRun_setRun hr]
      exact ht)
  exact ⟨k, t, hk, hrun, hexec⟩

end Sys2Proof.Machine
end

section
/-! PROOF. A host that breaks a duty about the windows gets no run (R64, R65, R214): the check of the duties comes first in
every SUBMIT, in every step of one in progress, and in a SUBMIT that a reset abandons. -/

namespace Sys2Proof.Machine

open Sys2Proof.Claims

/-! ## A SUBMIT -/

theorem submit_overlap {s : State} (h : s.overlap = true) (len cap : Word) (body : State → Result) :
    submit true true len cap body s = .refused .overlappingWindows := onWindows_overlap h ..

theorem submit_short {srcp dstp : Bool} {len cap : Word} {s : State}
    (ho : srcp = true → dstp = true → s.overlap = false)
    (hs : s.short = true ∨ (srcp = true ∧ s.src.size < len.toNat) ∨ (dstp = true ∧ s.dst.size < cap.toNat))
    (body : State → Result) : submit srcp dstp len cap body s = .refused .shortWindow := onWindows_short ho hs _

/-- The three forms that read input reach all L source bytes (R110). -/
theorem exec_decoding {i : Instr} {tag : PlaneTag} {srcp dstp : Bool} {len cap : Word}
    (hi : IsDecoding i tag srcp dstp len cap) (s : State) : ∃ body, exec i s = submit srcp dstp len cap body s := by
  rcases hi with rfl | rfl | ⟨comp, rfl⟩
  · exact ⟨_, rfl⟩
  · exact ⟨_, rfl⟩
  · exact ⟨_, rfl⟩

/-- A SUBMIT of any form is refused where the state notes short windows, or has fewer than C bytes of a present
destination. -/
theorem exec_submit_short {i : Instr} {tag : PlaneTag} {srcp dstp : Bool} {len cap : Word} {s : State}
    (hi : IsSubmit i tag srcp dstp len cap) (ho : srcp = true → dstp = true → s.overlap = false)
    (hs : s.short = true ∨ (dstp = true ∧ s.dst.size < cap.toNat)) : exec i s = .refused .shortWindow := by
  obtain ⟨reach, -, hexec⟩ := exec_submit hi
  rw [hexec]
  exact submit_short ho (hs.imp_right .inr) _

/-- What the host has left short is noted when the request is taken up (log 13). -/
theorem load_short_of_submit {r : Request} {i : Instr} {tag : PlaneTag} {srcp dstp : Bool} {len cap : Word}
    (hi : IsSubmit i tag srcp dstp len cap)
    (hs : (srcp = true ∧ r.src.size < len.toNat) ∨ (dstp = true ∧ r.dst.size < cap.toNat)) (s : State)
    (rest : List HostEvent) : (s.load r i rest).short = true := by
  rw [load_eq_of_submit (submitOperands_eq_some_iff.2 hi)]
  exact decide_eq_true hs

/-! ## A PackBits SUBMIT in progress -/

theorem onRun_eq {s : State} {u : PbRun} (hu : s.run = some u) (f : PbRun → PbRun) :
    onRun f s = s.onWindows true true u.srcLen u.dstCap (.next (s.setRun (f u))) := by
  simp only [onRun, hu]

/-- Where its windows are refused, every token is, and so is every step, the one that ends it included. -/
theorem tokens_and_step_refused {s : State} {u : PbRun} {why : Refusal} (hu : s.run = some u)
    (hwhy : ∀ x, s.onWindows true true u.srcLen u.dstCap x = .refused why) (count low : BitVec 7) :
    exec .pbNop s = .refused why ∧ exec (.pbLit count) s = .refused why ∧ exec (.pbRep low) s = .refused why ∧
      step s = .refused why := by
  have htoken : ∀ f, onRun f s = .refused why := fun f => (onRun_eq hu f).trans (hwhy _)
  refine ⟨htoken _, htoken _, htoken _, ?_⟩
  cases he : u.exhausted with
  | true => rw [step_finish hu he, hwhy]
  | false => rw [step_token hu he, hwhy]

/-- Settles O24: the overlap is refused before a SUBMIT looks at anything else, and likewise while one is in progress. -/
theorem overlappingWindowsAreRefused : Obligations.OverlappingWindowsAreRefused := by
  refine ⟨fun i tag len cap s hi ho => ?_, fun s u count low hu ho => ?_⟩
  · obtain ⟨reach, -, hexec⟩ := exec_submit hi
    rw [hexec, submit_overlap ho]
  · exact tokens_and_step_refused hu (onWindows_overlap ho _ _) count low

/-- Settles O25: the step of a request, exec of a SUBMIT and of one that reads input, and a SUBMIT in progress, one by
one. -/
theorem shortWindowsAreRefused : Obligations.ShortWindowsAreRefused := by
  refine ⟨fun s r rest i tag srcp dstp len cap hr hb hd hi ho hs => ?_, fun i tag srcp dstp len cap s ho =>
    ⟨fun hi hs => exec_submit_short hi ho hs, fun hi hp hlt => ?_⟩, fun s u count low hu ho hs => ?_⟩
  · rw [step_request hr hb hd]
    exact exec_submit_short hi ho (.inl (load_short_of_submit hi hs s rest))
  · obtain ⟨body, hexec⟩ := exec_decoding hi s
    rw [hexec]
    exact submit_short ho (.inr (.inl ⟨hp, hlt⟩)) body
  · have hpresent : s.short = true ∨ (true = true ∧ s.src.size < u.srcLen.toNat) ∨
        (true = true ∧ s.dst.size < u.dstCap.toNat) := hs.imp_right (Or.imp (⟨rfl, ·⟩) (⟨rfl, ·⟩))
    exact tokens_and_step_refused hu (onWindows_short (fun _ _ => ho) hpresent) count low

end Sys2Proof.Machine
end

section
/-! PROOF. A reset during an operation (R230): the reset state on the windows that the request brought, of which at most
the destination below C is disturbed. -/

namespace Sys2Proof.Machine

open Sys2Proof.Claims

/-- An operation other than a SUBMIT leaves the windows alone. -/
theorem abandon_of_not_submit {i : Instr} (h : submitOperands i = none) (s : State) :
    s.abandon i = .next s.hardReset := by
  simp only [State.abandon, h]

/-- A SUBMIT is abandoned behind the same check of the host's duties as it runs. -/
theorem abandon_of_submit {i : Instr} {o : SubmitOperands} (h : submitOperands i = some o) (s : State) :
    s.abandon i = s.onWindows o.srcp o.dstp o.len o.cap
      (.next (if s.lc = .opened ∧ o.srcp = true ∧ o.dstp = true ∧ s.reachesDst o.tag = true then
        s.hardReset.scrambleDst o.cap.toNat else s.hardReset)) := by
  simp only [State.abandon, h]

/-- Whatever is abandoned, the block is at its reset values without an answer; what is not the block's stays, but for the
destination. -/
theorem abandon_atReset {i : Instr} {s t : State} (h : s.abandon i = .next t) :
    AtReset t ∧ t.run = none ∧ t.response = none ∧ t.cfg = s.cfg ∧ t.inbox = s.inbox ∧ t.src = s.src := by
  rcases abandon_next h with rfl | ⟨o, -, -, -, -, rfl⟩
  · exact ⟨⟨rfl, rfl, rfl, rfl, rfl, rfl, rfl, rfl, rfl⟩, rfl, rfl, rfl, rfl, rfl⟩
  · exact ⟨⟨rfl, rfl, rfl, rfl, rfl, rfl, rfl, rfl, rfl⟩, rfl, rfl, rfl, rfl, rfl⟩

/-- Every SUBMIT reaches the destination but for the Red, Green and untagged ones of an RGB session (R50). -/
theorem reachesDst_eq_true {s : State} {tag : PlaneTag} :
    s.reachesDst tag = true ↔ ¬ (s.mode = .rgb24 ∧ tag ≠ .blue) := by
  cases hm : s.mode <;> simp [State.reachesDst, hm]

/-- The destination of an abandoned SUBMIT stays as it is, or the SUBMIT has passed its checks and reaches it, and C free
bytes stand in it. -/
theorem abandon_dst {i : Instr} {o : SubmitOperands} (ho : submitOperands i = some o) {s t : State}
    (h : s.abandon i = .next t) :
    t.dst = s.dst ∨
    (¬ (s.lc ≠ .opened ∨ o.srcp = false ∨ o.dstp = false ∨ (s.mode = .rgb24 ∧ o.tag ≠ .blue)) ∧
      o.cap.toNat ≤ s.dst.size ∧ t.dst = s.dst.writeBytes 0 (freeBytes s.draws o.cap.toNat)) := by
  rw [abandon_of_submit ho] at h
  obtain ⟨⟨-, -, -, hdst⟩, hnext⟩ := onWindows_next h
  obtain rfl := Host.Outcome.next.inj hnext
  split
  · next hc =>
    obtain ⟨hl, hsrcp, hdstp, hreach⟩ := hc
    refine .inr ⟨?_, hdst hdstp, rfl⟩
    rintro (hn | hn | hn | hn)
    · exact hn hl
    · rw [hsrcp] at hn; cases hn
    · rw [hdstp] at hn; cases hn
    · exact reachesDst_eq_true.1 hreach hn
  · exact .inl rfl

/-- An abandoned SUBMIT disturbs at most the destination bytes below C, and none where it would not write any. -/
theorem abandon_keeps_dst {i : Instr} {o : SubmitOperands} (ho : submitOperands i = some o) {s t : State}
    (h : s.abandon i = .next t) :
    t.dst.size = s.dst.size ∧ (s.dst.wf → t.dst.wf) ∧ (∀ a, o.cap.toNat ≤ a → t.dst.read a = s.dst.read a) ∧
    (s.lc ≠ .opened ∨ o.srcp = false ∨ o.dstp = false ∨ (s.mode = .rgb24 ∧ o.tag ≠ .blue) → t.dst = s.dst) := by
  rcases abandon_dst ho h with hdst | ⟨hreach, hcap, hdst⟩ <;> rw [hdst]
  · exact ⟨rfl, id, fun _ _ => rfl, fun _ => rfl⟩
  · refine ⟨rfl, fun hwf => ?_, fun a ha => ?_, fun hn => absurd hn hreach⟩
    · exact Window.wf_writeBytes hwf 0 _ (by rwa [length_freeBytes, Nat.zero_add])
    · rw [Window.read_writeBytes_zero, List.getElem?_eq_none (by rwa [length_freeBytes]), Option.getD_none]

/-- Settles O10: where the duties are kept the abandoned operation leaves the reset state on the loaded windows, and a
SUBMIT about which they are broken is refused as it would be without the reset. -/
theorem resetAbandonsTheOperation : Obligations.ResetAbandonsTheOperation := by
  intro s r rest i hr hb hd
  rw [step_resetDuring hr hb hd]
  refine ⟨fun hduty => ?_, fun tag srcp dstp len cap hi => ?_⟩
  · obtain ⟨t, ht⟩ := abandon_total (i := i) (s := s.load r i rest) fun o ho => by
      obtain ⟨hoverlap, hsrc, hdst⟩ := hduty _ _ _ _ _ (submitOperands_eq_some_iff.1 ho)
      exact dutiesKept_load ho hoverlap hsrc hdst s rest
    obtain ⟨hreset, hrun, hresponse, hcfg, hinbox, hsrc⟩ := abandon_atReset ht
    refine ⟨t, ht, hreset, hrun, hresponse, hcfg, hinbox, fun tag srcp dstp len cap hi => ?_, fun hn => ?_⟩
    · have ho := submitOperands_eq_some_iff.2 hi
      obtain ⟨hsize, hwf, hpast, huntouched⟩ := abandon_keeps_dst ho ht
      rw [load_eq_of_submit ho] at hsrc hsize hwf hpast huntouched
      exact ⟨hsrc, hsize, fun hdst => hwf (Window.wf_cut hdst _), hpast, huntouched⟩
    · have ho := submitOperands_eq_none hn
      rw [abandon_of_not_submit ho] at ht
      cases ht
      rw [load_eq_of_not_submit ho]
      exact ⟨rfl, rfl⟩
  · rw [abandon_of_submit (submitOperands_eq_some_iff.2 hi)]
    refine ⟨?_, fun ho hs => onWindows_short ho (.inl (load_short_of_submit hi hs s rest)) _⟩
    rintro rfl rfl ho
    exact onWindows_overlap (s := s.load r i rest) ho ..

end Sys2Proof.Machine
end

section
/-! PROOF. The bounds of a SUBMIT in its windows (R51, R52, R58, R110): nothing is written at C or past it, and nothing
depends on a source byte at L or past it. -/

namespace Sys2Proof.Machine

open Sys2Proof.Claims

/-! ## The destination -/

/-- A SUBMIT answers, and reports at most C bytes. -/
theorem SubmitEffect.response_le {cap : Word} {s t : State} (he : SubmitEffect cap s t) :
    ∃ r, t.response = some r ∧ r.word1.toNat ≤ cap.toNat ∧ r.word2 = 0#32 := by
  obtain ⟨rf, gf, planes, bytes, status, hcap, -⟩ := he
  exact ⟨_, rfl, (Nat.mod_le ..).trans hcap, rfl⟩

/-- Settles O39: past the bytes that it reports a SUBMIT keeps the destination, and it reports at most C. -/
theorem submitNeverWritesPastTheCapacity : Obligations.SubmitNeverWritesPastTheCapacity := by
  intro i tag srcp dstp len cap s t hi hexec
  have he := exec_submit_effect hi hexec
  obtain ⟨r, hr, hle, hzero⟩ := he.response_le
  exact ⟨fun a ha => he.read_dst hr (hle.trans ha), r, hr, hle, hzero⟩

/-! ## The source -/

theorem rawSamples_congr {src src' : Window} {len : Word} (h : ∀ a, a < len.toNat → src'.read a = src.read a) (k : Nat) :
    rawSamples src' len k = rawSamples src len k :=
  Window.readBytes_congr fun i hi => h (0 + i) (by omega)

section
variable {u : PbRun} {src src' : Window} (h : ∀ a, a < u.srcLen.toNat → src'.read a = src.read a)
include h

theorem PbRun.lit_congr (count : BitVec 7) : u.lit src' count = u.lit src count := by
  unfold PbRun.lit
  dsimp only
  rw [Window.readBytes_congr fun i hi => h _ (by omega)]

theorem PbRun.rep_congr (low : BitVec 7) : u.rep src' low = u.rep src low := by
  unfold PbRun.rep
  dsimp only
  split
  · next hlt => rw [h _ hlt]
  · rfl

/-- A turn of the token machine reads no source byte at L or past it. -/
theorem PbRun.token_congr (hpos : u.inPos < u.srcLen.toNat) : u.token src' = u.token src := by
  have hfetch : u.fetch src' = u.fetch src := h _ hpos
  simp only [PbRun.token, hfetch, PbRun.lit_congr h, PbRun.rep_congr h]

end

theorem PbRun.drain_congr (fuel : Nat) {u : PbRun} {src src' : Window}
    (h : ∀ a, a < u.srcLen.toNat → src'.read a = src.read a) : PbRun.drain fuel src' u = PbRun.drain fuel src u := by
  induction fuel generalizing u with
  | zero => rfl
  | succ f ih =>
    cases he : u.exhausted with
    | true => rw [PbRun.drain_exhausted he, PbRun.drain_exhausted he]
    | false =>
      obtain ⟨-, hlen, -⟩ := u.token_frame src
      rw [PbRun.drain, PbRun.drain, PbRun.token_congr h (PbRun.exhausted_eq_false.1 he).1, ih (by rwa [hlen])]

theorem packBitsSamples_congr {src src' : Window} {len : Word} (h : ∀ a, a < len.toNat → src'.read a = src.read a)
    (k : Nat) : packBitsSamples src' len k = packBitsSamples src len k := by
  rw [packBitsSamples, packBitsSamples, PbRun.drain_congr _ h]

/-- The state with another source window. -/
def State.setSrc (s : State) (w : Window) : State := { s with src := w }

/-- The bytes for the span come from the source bytes below L. -/
theorem spanBytes_setSrc {i : Instr} {tag : PlaneTag} {srcp dstp : Bool} {len cap : Word} {s : State} {m : Window}
    (hi : IsSubmit i tag srcp dstp len cap) (h : ∀ a, a < len.toNat → m.read a = s.src.read a) :
    spanBytes i (s.setSrc m) = spanBytes i s := by
  rcases hi with rfl | rfl | rfl | ⟨comp, rfl⟩
  · exact congrArg s.toSpan (rawSamples_congr h _)
  · rfl
  · exact congrArg s.toSpan (packBitsSamples_congr h _)
  · exact congrArg s.toSpan (rawSamples_congr h _)

/-- The routing reads no source byte: mode, tag, planes and row flags decide it. -/
theorem route_setSrc (tag : PlaneTag) (cap : Word) (bytes : List Byte) (s : State) (m : Window) :
    SameButSrc m (route tag cap bytes s) (route tag cap bytes (s.setSrc m)) := by
  obtain ⟨cfg, lc, mode, n, align, bpl, maxbuf, rf, gf, planes, -⟩ := s
  cases mode with
  | mono1 | gray8 => rfl
  | rgb24 =>
    cases tag with
    | untagged => rfl
    | red | green => cases planes <;> rfl
    | blue =>
      cases planes with
      | none => rfl
      | some ps => cases rf <;> cases gf <;> rfl

/-- Of the source window the host's duties are about the size alone. -/
theorem unfit_setSrc {s : State} {m : Window} (h : m.size = s.src.size) (srcp dstp : Bool) (len cap : Word) :
    (s.setSrc m).unfit srcp dstp len cap = s.unfit srcp dstp len cap := by
  have hduties : (s.setSrc m).dutiesKept srcp dstp len cap ↔ s.dutiesKept srcp dstp len cap := by
    simp only [State.dutiesKept, State.setSrc, h]
  exact if_congr hduties rfl rfl

/-- Settles O40: the checks see the size of the source window, the bytes for the span come from below L, and the routing
does not look at it. -/
theorem submitReadsOnlyTheDeclaredLength : Obligations.SubmitReadsOnlyTheDeclaredLength := by
  intro i tag srcp dstp len cap s m hi hsize hread
  obtain ⟨reach, -, hexec⟩ := exec_submit hi
  rw [hexec, hexec]
  refine submit_rel (R := SameButSrc m) (s' := s.setSrc m) (fun _ => rfl) (unfit_setSrc hsize ..) rfl rfl ?_
  rw [spanBytes_setSrc hi hread]
  exact route_setSrc ..

end Sys2Proof.Machine
end

section
/-! PROOF. Request headers (R70 to R79): the fields of the headers that the encoder writes, and a legal header as what it
writes from their fields. -/

namespace Sys2Proof

/-! ## Fields as bits -/

/-- A field above the low field `lo` is one of the fields in `hi`. -/
theorem extractLsb'_append_above {v w start len : Nat} {hi : BitVec v} {lo : BitVec w} {x : BitVec len}
    (h : hi.extractLsb' (start - w) len = x) (hle : w ≤ start := by decide) : (hi ++ lo).extractLsb' start len = x :=
  (BitVec.extractLsb'_append_eq_of_le hle).trans h

/-- A bit is a field of width 1. -/
theorem ofBool_getLsbD (h : Word) (k : Nat) : BitVec.ofBool (h.getLsbD k) = h.extractLsb' k 1 := by
  rw [BitVec.getLsbD_eq_extractLsb']
  generalize h.extractLsb' k 1 = b
  revert b
  decide

/-- MODE is read as the two bits that it is written as (R73). -/
theorem bits_modeField (h : Word) : (modeField h).bits = h.extractLsb' 2 2 := by
  unfold modeField
  generalize h.extractLsb' 2 2 = b
  revert b
  decide

theorem modeField_of_bits {h : Word} {mode : ModeField} (hbits : h.extractLsb' 2 2 = mode.bits) :
    modeField h = mode := by
  rw [modeField, hbits]
  cases mode <;> rfl

/-- TAG likewise (R75). -/
theorem bits_tagField (h : Word) : (tagField h).bits = h.extractLsb' 2 2 := by
  unfold tagField
  generalize h.extractLsb' 2 2 = b
  revert b
  decide

theorem tagField_of_bits {h : Word} {tag : PlaneTag} (hbits : h.extractLsb' 2 2 = tag.bits) : tagField h = tag := by
  rw [tagField, hbits]
  cases tag <;> rfl

/-! ## Legal headers, format by format -/

theorem legalHeader_open {h : Word} (hop : opField h = 0b01#2) :
    legalHeader h = true ↔ h.extractLsb' 5 11 = 0#11 := by
  simp [legalHeader, hop]

theorem legalHeader_submit {h : Word} (hop : opField h = 0b10#2) :
    legalHeader h = true ↔ h.extractLsb' 16 16 = 0#16 ∧ h.extractLsb' 6 2 = 0#2 := by
  simp [legalHeader, hop]

theorem legalHeader_close {h : Word} (hop : opField h = 0b11#2) :
    legalHeader h = true ↔ h.extractLsb' 2 30 = 0#30 := by
  simp [legalHeader, hop]

theorem legalHeader_noFormat {h : Word} (hop : opField h = 0b00#2) : legalHeader h = false := by
  simp [legalHeader, hop]

/-- The third format is what is left of OP in a legal header (R71). -/
theorem opField_eq_close {h : Word} (hl : legalHeader h = true) (hopen : opField h ≠ 0b01#2)
    (hsubmit : opField h ≠ 0b10#2) : opField h = 0b11#2 := by
  by_contra hclose
  simp [legalHeader, hopen, hsubmit, hclose] at hl

/-! ## The headers that the encoder writes -/

section
variable (mode : ModeField) (n : BitVec 16) (align : Bool)

@[simp] theorem opField_openHeader : opField (openHeader mode n align) = 0b01#2 := BitVec.extractLsb'_append_eq_right

@[simp] theorem modeField_openHeader : modeField (openHeader mode n align) = mode :=
  modeField_of_bits <| extractLsb'_append_above BitVec.extractLsb'_append_eq_right

@[simp] theorem alignField_openHeader : alignField (openHeader mode n align) = align :=
  BitVec.ofBool_eq_iff_eq.1 <| (ofBool_getLsbD _ 4).trans <|
    extractLsb'_append_above <| extractLsb'_append_above BitVec.extractLsb'_append_eq_right

@[simp] theorem nField_openHeader : nField (openHeader mode n align) = n :=
  extractLsb'_append_above <| extractLsb'_append_above <| extractLsb'_append_above BitVec.extractLsb'_append_eq_left

@[simp] theorem legalHeader_openHeader : legalHeader (openHeader mode n align) = true :=
  (legalHeader_open (opField_openHeader ..)).2 <|
    extractLsb'_append_above <| extractLsb'_append_above <| extractLsb'_append_above BitVec.extractLsb'_append_eq_right

end

section
variable (comp : Byte) (tag : PlaneTag) (srcp dstp : Bool)

@[simp] theorem opField_submitHeader : opField (submitHeader comp tag srcp dstp) = 0b10#2 :=
  BitVec.extractLsb'_append_eq_right

@[simp] theorem tagField_submitHeader : tagField (submitHeader comp tag srcp dstp) = tag :=
  tagField_of_bits <| extractLsb'_append_above BitVec.extractLsb'_append_eq_right

@[simp] theorem srcpField_submitHeader : srcpField (submitHeader comp tag srcp dstp) = srcp :=
  BitVec.ofBool_eq_iff_eq.1 <| (ofBool_getLsbD _ 4).trans <|
    extractLsb'_append_above <| extractLsb'_append_above BitVec.extractLsb'_append_eq_right

@[simp] theorem dstpField_submitHeader : dstpField (submitHeader comp tag srcp dstp) = dstp :=
  BitVec.ofBool_eq_iff_eq.1 <| (ofBool_getLsbD _ 5).trans <|
    extractLsb'_append_above <| extractLsb'_append_above <| extractLsb'_append_above BitVec.extractLsb'_append_eq_right

@[simp] theorem compField_submitHeader : compField (submitHeader comp tag srcp dstp) = comp :=
  extractLsb'_append_above <| extractLsb'_append_above <| extractLsb'_append_above <| extractLsb'_append_above <|
    extractLsb'_append_above BitVec.extractLsb'_append_eq_right

@[simp] theorem legalHeader_submitHeader : legalHeader (submitHeader comp tag srcp dstp) = true :=
  (legalHeader_submit (opField_submitHeader ..)).2
    ⟨extractLsb'_append_above <| extractLsb'_append_above <| extractLsb'_append_above <| extractLsb'_append_above <|
      extractLsb'_append_above BitVec.extractLsb'_append_eq_left,
    extractLsb'_append_above <| extractLsb'_append_above <| extractLsb'_append_above <| extractLsb'_append_above
      BitVec.extractLsb'_append_eq_right⟩

end

/-! ## A legal header is what the encoder writes from its fields -/

theorem openHeader_fields {h : Word} (hl : legalHeader h = true) (hop : opField h = 0b01#2) :
    openHeader (modeField h) (nField h) (alignField h) = h := by
  rw [openHeader, ← (legalHeader_open hop).1 hl, ← hop, bits_modeField, alignField, ofBool_getLsbD, nField, opField]
  repeat rw [BitVec.extractLsb'_append_extractLsb'_eq_extractLsb' (by rfl)]
  exact BitVec.extractLsb'_eq_self

theorem submitHeader_fields {h : Word} (hl : legalHeader h = true) (hop : opField h = 0b10#2) :
    submitHeader (compField h) (tagField h) (srcpField h) (dstpField h) = h := by
  obtain ⟨hhigh, hlow⟩ := (legalHeader_submit hop).1 hl
  rw [submitHeader, ← hhigh, ← hlow, ← hop, bits_tagField, srcpField, dstpField, ofBool_getLsbD, ofBool_getLsbD,
    compField, opField]
  repeat rw [BitVec.extractLsb'_append_extractLsb'_eq_extractLsb' (by rfl)]
  exact BitVec.extractLsb'_eq_self

theorem eq_closeHeader {h : Word} (hl : legalHeader h = true) (hop : opField h = 0b11#2) : h = closeHeader := by
  calc h = h.extractLsb' 2 30 ++ opField h := (BitVec.extractLsb'_append_extractLsb' (w := 30) (len := 2)).symm
    _ = 0#30 ++ 0b11#2 := by rw [(legalHeader_close hop).1 hl, hop]
    _ = closeHeader := by decide

/-! ## Requests -/

theorem decodeRequest_illegal {h : Word} (hl : legalHeader h = false) (operands : List Word) :
    decodeRequest (h :: operands) = .ok (.illegal h) := by
  simp [decodeRequest, hl]

@[simp] theorem decodeRequest_openHeader (mode : ModeField) (n : BitVec 16) (align : Bool) :
    decodeRequest [openHeader mode n align] = .ok (.openSession mode n align) := by
  simp [decodeRequest]

@[simp] theorem decodeRequest_submitHeader (comp : Byte) (tag : PlaneTag) (srcp dstp : Bool) (len cap : Word) :
    decodeRequest [submitHeader comp tag srcp dstp, len, cap] =
      .ok (decodeSubmit (submitHeader comp tag srcp dstp) len cap) := by
  simp [decodeRequest]

@[simp] theorem decodeRequest_closeHeader : decodeRequest [closeHeader] = .ok .close := by decide

end Sys2Proof
end

section
/-! PROOF. Control bytes as numbers (R84, R85), and the decoder and the encoder as inverses of each other on requests and
control bytes. -/

namespace Sys2Proof

open Sys2Proof.Machine

/-! ## Control bytes -/

theorem toNat_zero_append (x : BitVec 7) : (0#1 ++ x : Byte).toNat = x.toNat := by
  rw [BitVec.toNat_append]
  exact Nat.zero_or _

theorem toNat_one_append (x : BitVec 7) : (1#1 ++ x : Byte).toNat = 128 + x.toNat := by
  rw [BitVec.toNat_append]
  exact (Nat.two_pow_add_eq_or_of_lt x.isLt 1).symm

theorem decodeControl_lit {c : Byte} (h : c.toNat < 128) : decodeControl c = .pbLit (c.setWidth 7) := by
  rw [decodeControl, if_pos (BitVec.le_def.2 (Nat.le_of_lt_succ h)), BitVec.setWidth_eq_extractLsb' (by decide)]

theorem decodeControl_nop : decodeControl 0x80#8 = .pbNop := rfl

theorem decodeControl_rep {c : Byte} (h : 128 < c.toNat) : decodeControl c = .pbRep (c.setWidth 7) := by
  have hlit : ¬ c ≤ 0x7F#8 := fun hle => absurd (BitVec.le_def.1 hle) (Nat.not_le.2 (Nat.lt_of_succ_lt h))
  have hnop : c ≠ 0x80#8 := by
    rintro rfl
    exact absurd h (by decide)
  rw [decodeControl, if_neg hlit, if_neg hnop, BitVec.setWidth_eq_extractLsb' (by decide)]

/-- The three classes of R84. -/
theorem control_cases (c : Byte) : c.toNat < 128 ∨ c = 0x80#8 ∨ 128 < c.toNat := by
  by_cases he : c.toNat = 128
  · exact .inr (.inl (BitVec.eq_of_toNat_eq he))
  · omega

theorem decodeControl_zero_append (count : BitVec 7) : decodeControl (0#1 ++ count) = .pbLit count := by
  rw [decodeControl_lit (by rw [toNat_zero_append]; exact count.isLt), BitVec.setWidth_append_eq_right]

theorem decodeControl_one_append {low : BitVec 7} (h : low ≠ 0#7) : decodeControl (1#1 ++ low) = .pbRep low := by
  have hpos : low.toNat ≠ 0 := fun h0 => h (BitVec.eq_of_toNat_eq h0)
  rw [decodeControl_rep (by rw [toNat_one_append]; omega), BitVec.setWidth_append_eq_right]

/-- A control byte is its class bit and its seven low bits. -/
theorem zero_append_setWidth {c : Byte} (h : c.toNat < 128) : 0#1 ++ c.setWidth 7 = c := by
  apply BitVec.eq_of_toNat_eq
  rw [toNat_zero_append, BitVec.toNat_setWidth]
  omega

theorem one_append_setWidth {c : Byte} (h : 128 ≤ c.toNat) : 1#1 ++ c.setWidth 7 = c := by
  apply BitVec.eq_of_toNat_eq
  rw [toNat_one_append, BitVec.toNat_setWidth]
  omega

/-! ## Decoding and encoding -/

/-- Settles O1, instruction by instruction: the headers by their fields, the control bytes by their class. -/
theorem decodeEncodeRoundTrip : Obligations.DecodeEncodeRoundTrip := by
  intro i hwf
  cases i with
  | openSession mode n align => exact decodeRequest_openHeader ..
  | submitRaw tag srcp dstp len cap => simp [encode, decode, decodeSubmit]
  | submitFill tag srcp dstp len cap => simp [encode, decode, decodeSubmit]
  | submitPackBits tag srcp dstp len cap => simp [encode, decode, decodeSubmit]
  | submitUnknown comp tag srcp dstp len cap =>
    obtain ⟨⟨hraw, hfill⟩, hpack⟩ : (comp ≠ 0x00#8 ∧ comp ≠ 0x01#8) ∧ comp ≠ 0x02#8 := by
      simpa [Instr.wellFormed] using hwf
    simp [encode, decode, decodeSubmit, hraw, hfill, hpack]
  | close => exact decodeRequest_closeHeader
  | illegal header => exact decodeRequest_illegal (by simpa [Instr.wellFormed] using hwf) []
  | pbNop => exact congrArg Except.ok decodeControl_nop
  | pbLit count => exact congrArg Except.ok (decodeControl_zero_append count)
  | pbRep low => exact congrArg Except.ok (decodeControl_one_append (by simpa [Instr.wellFormed] using hwf))

/-- Whatever form of SUBMIT a legal header stands for, it is well-formed and encodes back to that header and its operand
words. -/
theorem encode_decodeSubmit {h : Word} (hl : legalHeader h = true) (hop : opField h = 0b10#2) (len cap : Word) :
    (decodeSubmit h len cap).wellFormed = true ∧ encode (decodeSubmit h len cap) = .request [h, len, cap] := by
  have hfields := submitHeader_fields hl hop
  rcases decodeSubmit_cases h len cap with ⟨hc, e⟩ | ⟨hc, e⟩ | ⟨hc, e⟩ | ⟨hraw, hfill, hpack, e⟩ <;> rw [e]
  · exact ⟨rfl, by rw [encode, ← hc, hfields]⟩
  · exact ⟨rfl, by rw [encode, ← hc, hfields]⟩
  · exact ⟨rfl, by rw [encode, ← hc, hfields]⟩
  · exact ⟨by simp [Instr.wellFormed, hraw, hfill, hpack], by rw [encode, hfields]⟩

/-- Every control byte is the encoding of a well-formed token (R85). -/
theorem encode_decodeControl (c : Byte) :
    (decodeControl c).wellFormed = true ∧ encode (decodeControl c) = .control c := by
  rcases control_cases c with hlit | rfl | hrep
  · rw [decodeControl_lit hlit]
    exact ⟨rfl, congrArg Encoding.control (zero_append_setWidth hlit)⟩
  · exact ⟨rfl, rfl⟩
  · rw [decodeControl_rep hrep]
    have hc : 1#1 ++ c.setWidth 7 = c := one_append_setWidth hrep.le
    have hlow : c.setWidth 7 ≠ 0#7 := fun hzero => by
      rw [← hc, hzero] at hrep
      exact absurd hrep (by decide)
    exact ⟨by simp [Instr.wellFormed, hlow], congrArg Encoding.control hc⟩

/-- Settles O2, by what a request can decode to, and by the class of a control byte. -/
theorem encodeDecodeKeepsEveryBit : Obligations.EncodeDecodeKeepsEveryBit := by
  intro e i hd
  cases e with
  | request words =>
    obtain ⟨h, operands, rfl, hcase⟩ := decodeRequest_cases hd
    rcases hcase with ⟨hl, rfl⟩ | ⟨hl, hop, len, cap, rfl, rfl⟩ | ⟨hl, hop, rfl, rfl⟩ | ⟨hl, hop, hop', rfl, rfl⟩
    · exact ⟨by simp [Instr.wellFormed, hl], .inr ⟨h, operands, rfl, rfl⟩⟩
    · exact (encode_decodeSubmit hl hop len cap).imp_right .inl
    · exact ⟨rfl, .inl (by rw [encode, openHeader_fields hl hop])⟩
    · exact ⟨rfl, .inl (by rw [encode, eq_closeHeader hl (opField_eq_close hl hop' hop)])⟩
  | control c =>
    obtain rfl : decodeControl c = i := Except.ok.inj hd
    exact (encode_decodeControl c).imp_right .inl

/-- Settles O5: each of the words is the encoding of its instruction. -/
theorem exampleHeadersDecode : Obligations.ExampleHeadersDecode :=
  have roundTrip (i : Instr) (hwf : i.wellFormed = true) : decode (encode i) = .ok i := decodeEncodeRoundTrip i hwf
  ⟨roundTrip (.openSession .mono1 16#16 false) rfl, roundTrip (.openSession .mono1 16#16 true) rfl,
    roundTrip (.openSession .gray8 4#16 false) rfl, roundTrip (.openSession .rgb24 2#16 false) rfl,
    roundTrip (.openSession .unrecognized 16#16 false) rfl,
    fun len cap => roundTrip (.submitRaw .untagged true true len cap) rfl,
    fun len cap => roundTrip (.submitFill .untagged true true len cap) rfl,
    fun len cap => roundTrip (.submitPackBits .untagged true true len cap) rfl,
    fun len cap => roundTrip (.submitUnknown 7#8 .untagged true true len cap) rfl,
    fun len cap => roundTrip (.submitRaw .red true true len cap) rfl,
    fun len cap => roundTrip (.submitRaw .green true true len cap) rfl,
    fun len cap => roundTrip (.submitRaw .blue true true len cap) rfl,
    fun len cap => roundTrip (.submitRaw .untagged false true len cap) rfl,
    roundTrip .close rfl⟩

/-- Settles O4: the number read as signed fixes the class, and the seven low bits the run length. -/
theorem packBitsControlByteClasses : Obligations.PackBitsControlByteClasses := by
  intro c
  have hsigned := BitVec.toInt_eq_toNat_cond c
  have hlow : (c.setWidth 7).toNat = c.toNat % 128 := BitVec.toNat_setWidth 7 c
  have hlt : c.toNat < 256 := c.isLt
  refine ⟨fun h => ?_, fun h => ?_, fun hge hle => ?_⟩
  · have hlit : c.toNat < 128 := by omega
    refine ⟨congrArg Except.ok (decodeControl_lit hlit), ?_⟩
    rw [litLength, hlow]
    omega
  · obtain rfl : c = 0x80#8 := BitVec.eq_of_toInt_eq h
    rfl
  · have hrep : 128 < c.toNat := by omega
    refine ⟨congrArg Except.ok (decodeControl_rep hrep), ?_⟩
    rw [repLength, hlow]
    omega

end Sys2Proof
end

section
/-! PROOF. The illegal headers of R81 bit by bit, and the step that answers one (R200). -/

namespace Sys2Proof.Machine

open Sys2Proof.Claims

/-- A field is not 0 exactly where one of its bits, `start` to `last`, is 1. -/
theorem extractLsb'_ne_zero_iff (h : Word) (start len last : Nat) (hlast : last + 1 = start + len) :
    ¬ h.extractLsb' start len = 0#len ↔ ∃ k, start ≤ k ∧ k ≤ last ∧ h.getLsbD k = true := by
  constructor
  · intro hne
    by_contra hno
    refine hne (BitVec.eq_of_getLsbD_eq fun i hi => ?_)
    have hbit : h.getLsbD (start + i) = false :=
      Bool.eq_false_iff.2 fun hb => hno ⟨start + i, by omega, by omega, hb⟩
    simp [hbit]
  · rintro ⟨k, hlo, hhi, hbit⟩ hzero
    have hbit' : (h.extractLsb' start len).getLsbD (k - start) = true := by
      rw [BitVec.getLsbD_extractLsb', Nat.add_sub_cancel' hlo, hbit, decide_eq_true (by omega), Bool.and_self]
    rw [hzero, BitVec.getLsbD_zero] at hbit'
    cases hbit'

/-- OP bit by bit (R71). -/
theorem opField_eq_bits (h : Word) : opField h = BitVec.ofBool (h.getLsbD 1) ++ BitVec.ofBool (h.getLsbD 0) := by
  rw [ofBool_getLsbD, ofBool_getLsbD, BitVec.extractLsb'_append_extractLsb'_eq_extractLsb' (by rfl), opField]

/-- The decoder's reserved fields are the reserved bits of R81, OP by OP. -/
theorem legalHeader_eq_false_iff (h : Word) : legalHeader h = false ↔ HeaderIllegal h := by
  have hop := opField_eq_bits h
  rw [← Bool.not_eq_true, HeaderIllegal]
  cases h0 : h.getLsbD 0 <;> cases h1 : h.getLsbD 1 <;> rw [h0, h1] at hop
  · simp [legalHeader_noFormat hop]
  · rw [legalHeader_submit hop, not_and_or, or_comm, extractLsb'_ne_zero_iff h 6 2 7 rfl,
      extractLsb'_ne_zero_iff h 16 16 31 rfl]
    simp [or_and_right, exists_or, and_assoc]
  · rw [legalHeader_open hop, extractLsb'_ne_zero_iff h 5 11 15 rfl]
    simp
  · rw [legalHeader_close hop, extractLsb'_ne_zero_iff h 2 30 31 rfl]
    simp

/-- Only an illegal header is an illegal request. -/
theorem legalHeader_of_decode_illegal {h h' : Word} {operands : List Word}
    (hd : decode (.request (h :: operands)) = .ok (.illegal h')) : legalHeader h = false := by
  obtain ⟨hwf, henc⟩ := encodeDecodeKeepsEveryBit _ _ hd
  have hsame : h = h' := by
    rcases henc with he | ⟨h'', operands', he, hi⟩
    · cases he; rfl
    · cases he; cases hi; rfl
  rw [hsame]
  simpa [Instr.wellFormed] using hwf

/-- Settles O3: the step of an illegal header is exec of ILLEGAL on the loaded state, and no other header decodes to
ILLEGAL. -/
theorem illegalHeadersAreThoseOfR81 : Obligations.IllegalHeadersAreThoseOfR81 := by
  intro s r rest h operands hr hb hw
  rw [← legalHeader_eq_false_iff, hw]
  refine ⟨fun hl => ?_, fun hl i hd h' hi => hl (legalHeader_of_decode_illegal (hi ▸ hd))⟩
  have hd : decodeRequest r.words = .ok (.illegal h) := hw ▸ decodeRequest_illegal hl operands
  rw [step_request hr hb hd, load_eq_of_not_submit rfl]
  rfl

end Sys2Proof.Machine
end

section
/-! PROOF. The answer of each request (R82, R83): which statuses it can have, and what words 1 and 2 are with each. -/

namespace Sys2Proof.Machine

open Sys2Proof.Claims

/-- The answers that a request has: the layout after a successful OPEN, the byte count of an emitted line, OK alone for
CLOSE, and any other status alone (R83). -/
inductive Answered (t : State) : Instr → Prop
  | opened (mode : ModeField) (n : BitVec 16) (align : Bool) (h : t.response = answer .ok t.bpl t.maxbuf) :
      Answered t (.openSession mode n align)
  | closed (h : t.response = answer .ok 0#32 0#32) : Answered t .close
  | emitted (i : Instr) (count : Word) (h : t.response = answer .emitted count 0#32) : Answered t i
  | other (i : Instr) (status : Status) (hok : status ≠ .ok) (hemitted : status ≠ .emitted)
      (h : t.response = answer status 0#32 0#32) : Answered t i

/-- The plane assembler answers BUFFERED, or EMITTED where a Blue record completes its row (R153, R154). -/
theorem assemble_answered (i : Instr) {tag : PlaneTag} {seq : List Byte} {cap : Word} {s t : State}
    (h : assemble tag seq cap s = .next t) : Answered t i := by
  rcases assemble_next h with ⟨-, rfl⟩ | ⟨ps, -, ⟨-, rfl⟩ | ⟨-, rfl⟩ | ⟨-, rfl⟩⟩
  · exact .other i .buffered nofun nofun rfl
  · exact .other i .buffered nofun nofun rfl
  · exact .other i .buffered nofun nofun rfl
  · rcases s.row_cases with hrow | ⟨hr, hg⟩
    · rw [assembleBlue_partial hrow]
      exact .other i .buffered nofun nofun rfl
    · rw [assembleBlue_complete hr hg]
      exact .emitted i _ rfl

theorem route_answered (i : Instr) {tag : PlaneTag} {cap : Word} {bytes : List Byte} {s t : State}
    (h : route tag cap bytes s = .next t) : Answered t i := by
  unfold route at h
  split at h
  · exact assemble_answered i h
  · cases h
    exact .emitted i _ rfl

/-- A SUBMIT answers FAULT or what its routing answers (R175). -/
theorem exec_submit_answered {i : Instr} {tag : PlaneTag} {srcp dstp : Bool} {len cap : Word} {s t : State}
    (hi : IsSubmit i tag srcp dstp len cap) (h : exec i s = .next t) : Answered t i := by
  obtain ⟨reach, -, hexec⟩ := exec_submit hi
  rw [hexec] at h
  rcases (submit_next h).2 with ⟨rfl, -⟩ | ⟨-, -, -, -, hroute⟩
  · exact .other i .fault nofun nofun rfl
  · exact route_answered i hroute

theorem execOpen_answered {mode : ModeField} {n : BitVec 16} {align : Bool} {s t : State}
    (h : execOpen mode n align s = .next t) : Answered t (.openSession mode n align) := by
  rcases open_next h with ⟨-, rfl⟩ | ⟨-, -, rfl⟩ | ⟨g, -, ⟨-, -, rfl⟩ | ⟨-, rfl⟩⟩
  · exact .other _ .invalidConfig nofun nofun rfl
  · exact .other _ .allocationFailure nofun nofun rfl
  · exact .opened mode n align rfl
  · exact .opened mode n align rfl

/-- Every request that answers a next state has one of these answers. -/
theorem exec_answered {i : Instr} {s t : State} (hreq : i.isRequest = true) (h : exec i s = .next t) :
    Answered t i := by
  cases ho : submitOperands i with
  | some o => exact exec_submit_answered (submitOperands_eq_some_iff.1 ho) h
  | none =>
    cases i with
    | openSession mode n align => exact execOpen_answered h
    | close => cases h; exact .closed rfl
    | illegal header => cases h; exact .other _ .illegalCommand nofun nofun rfl
    | submitRaw | submitFill | submitPackBits | submitUnknown => cases ho
    | pbNop | pbLit | pbRep => cases hreq

/-- Response word 0 is the value of R82's table. -/
theorem Response.words_eq (r : Response) : r.words = [statusWord r.status, r.word1, r.word2] := by
  obtain ⟨status, word1, word2⟩ := r
  cases status <;> rfl

/-- Settles O44, by the four kinds of answer. -/
theorem responseWords : Obligations.ResponseWords := by
  intro i s t hreq hexec
  cases exec_answered hreq hexec with
  | opened mode n align h =>
    exact ⟨_, h, Response.words_eq _, fun _ _ _ _ _ => ⟨rfl, rfl⟩, nofun, fun _ hi => absurd rfl (hi mode n align),
      fun _ hok => absurd rfl hok⟩
  | closed h => exact ⟨_, h, Response.words_eq _, nofun, nofun, fun _ _ => ⟨rfl, rfl⟩, fun _ _ => ⟨rfl, rfl⟩⟩
  | emitted i count h =>
    exact ⟨_, h, Response.words_eq _, fun _ _ _ _ hok => (by cases hok), fun _ => rfl, fun he => absurd rfl he,
      fun he => absurd rfl he⟩
  | other i status hok hemitted h =>
    exact ⟨_, h, Response.words_eq _, fun _ _ _ _ he => absurd he hok, fun he => absurd he hemitted,
      fun _ _ => ⟨rfl, rfl⟩, fun _ _ => ⟨rfl, rfl⟩⟩

end Sys2Proof.Machine
end

section
/-! PROOF. The line length of a layout (R102, R103, R108): alignment takes the unaligned line to a multiple of 4. -/

namespace Sys2Proof.Machine

open Sys2Proof.Claims

/-- The aligned line is a multiple of 4 (R103). -/
theorem four_dvd_alignBytes_true (base : Nat) : 4 ∣ alignBytes true base :=
  Nat.dvd_mul_right 4 (ceilDiv base 4)

/-- Without the flag the line is the unaligned one (R103). -/
theorem alignBytes_false (base : Nat) : alignBytes false base = base := rfl

/-- The configuration unit's unaligned line is R102's, mode by mode. -/
theorem baseBytes_effectiveMode (mode : ModeField) (n : Nat) :
    baseBytes (effectiveMode mode) n = lineBytes mode n false := by
  cases mode <;> rfl

/-- Settles O19: both layouts round the same unaligned line, which alignment raises by at most 3 bytes. -/
theorem alignedLineProperties : Obligations.AlignedLineProperties := by
  intro mode n g u hu hg
  obtain ⟨-, -, -, hubpl, -⟩ := geometry_some hu
  obtain ⟨-, -, -, hgbpl, -⟩ := geometry_some hg
  rw [alignBytes_false, baseBytes_effectiveMode] at hubpl
  rw [baseBytes_effectiveMode, ← hubpl] at hgbpl
  have hbounds := alignBytes_bounds true u.bpl.toNat
  rw [← hgbpl] at hbounds
  have hmod : g.bpl.toNat % 4 = 0 := hgbpl ▸ Nat.mod_eq_zero_of_dvd (four_dvd_alignBytes_true u.bpl.toNat)
  exact ⟨hmod, hbounds.1, Nat.sub_le_iff_le_add'.2 hbounds.2, hubpl⟩

end Sys2Proof.Machine
end

section
/-! PROOF. PackBits (R119 to R127): what each token does to a run in progress, the loop of R120 as the same tokens, and the
token machine as that loop cut at the capacity. -/

namespace Sys2Proof.Machine

open Sys2Proof.Claims

/-! ## What a token does to a run in progress -/

/-- The whole input of a run, `s` in R120. -/
def PbRun.input (u : PbRun) (src : Window) : List Byte := src.readBytes 0 u.srcLen.toNat

theorem PbRun.input_getElem? (u : PbRun) (src : Window) (i : Nat) :
    (u.input src)[i]? = if i < u.srcLen.toNat then some (src.read i) else none := by
  rw [PbRun.input, Window.getElem?_readBytes, Nat.zero_add]

/-- The literal bytes of PB.LIT are the next ones of the input, or those that remain (R121). -/
theorem PbRun.lit_eq (u : PbRun) (src : Window) (count : BitVec 7) :
    u.lit src count = { u with
      inPos := u.inPos + (1 + (count.toNat + 1))
      ctl := 0#1 ++ count
      out := (u.out ++ ((u.input src).drop (u.inPos + 1)).take (count.toNat + 1)).take u.cap } := by
  have hbytes : ((u.input src).drop (u.inPos + 1)).take (count.toNat + 1) =
      src.readBytes (u.inPos + 1) (min (u.inPos + 1 + litLength count) u.srcLen.toNat - (u.inPos + 1)) := by
    rw [PbRun.input, Window.drop_readBytes, Window.take_readBytes, Nat.zero_add, litLength]
    congr 1
    omega
  rw [hbytes, ← Nat.add_assoc]
  rfl

/-- PB.REP repeats the next byte of the input, if there is one (R122). -/
theorem PbRun.rep_eq (u : PbRun) (src : Window) (low : BitVec 7) :
    u.rep src low = { u with
      inPos := u.inPos + 2
      ctl := 1#1 ++ low
      out := (u.out ++ (u.input src)[u.inPos + 1]?.elim [] (List.replicate (repLength low))).take u.cap } := by
  have hbytes : (u.input src)[u.inPos + 1]?.elim [] (List.replicate (repLength low)) =
      if u.inPos + 1 < u.srcLen.toNat then List.replicate (repLength low) (src.read (u.inPos + 1)) else [] := by
    rw [PbRun.input_getElem?]
    split <;> rfl
  rw [hbytes]
  rfl

/-! ## The control byte of a decoded token -/

theorem encode_of_decodeControl {c : Byte} {i : Instr} (h : decodeControl c = i) :
    i.wellFormed = true ∧ encode i = .control c := h ▸ encode_decodeControl c

theorem eq_of_decodeControl_lit {c : Byte} {count : BitVec 7} (h : decodeControl c = .pbLit count) : c = 0#1 ++ count :=
  (Encoding.control.inj (encode_of_decodeControl h).2).symm

theorem eq_of_decodeControl_nop {c : Byte} (h : decodeControl c = .pbNop) : c = 0x80#8 :=
  (Encoding.control.inj (encode_of_decodeControl h).2).symm

/-- The control byte of PB.REP is above 0x80 (R84). -/
theorem eq_of_decodeControl_rep {c : Byte} {low : BitVec 7} (h : decodeControl c = .pbRep low) :
    c = 1#1 ++ low ∧ 128 < c.toNat := by
  obtain ⟨hwf, henc⟩ := encode_of_decodeControl h
  have hc : c = 1#1 ++ low := (Encoding.control.inj henc).symm
  have hlow : low ≠ 0#7 := by simpa [Instr.wellFormed] using hwf
  have hpos : low.toNat ≠ 0 := fun h0 => hlow (BitVec.eq_of_toNat_eq h0)
  exact ⟨hc, by rw [hc, toNat_one_append]; omega⟩

/-- The run length of PB.REP in its control byte: 257 - c (R84). -/
theorem repLength_eq (low : BitVec 7) : repLength low = 257 - (1#1 ++ low : Byte).toNat := by
  rw [toNat_one_append, repLength]

/-! ## The three tokens as instructions -/

/-- Settles O47: the literal token's turn, its control byte read as a number. -/
theorem literalTokenCopies : Obligations.LiteralTokenCopies := by
  intro count s u hu hw
  have hctl : BitVec.ofNat 8 count.toNat = 0#1 ++ count := by
    rw [← toNat_zero_append, BitVec.ofNat_toNat, BitVec.setWidth_eq]
  rw [hctl]
  exact (onRun_some hu hw).trans (by rw [PbRun.lit_eq]; rfl)

/-- Settles O48: the repeat token's turn, with a byte left to repeat and without one. -/
theorem repeatTokenRepeats : Obligations.RepeatTokenRepeats := by
  intro c low s u hd hu hw
  obtain ⟨rfl, -⟩ := eq_of_decodeControl_rep (Except.ok.inj hd)
  refine (onRun_some hu hw).trans ?_
  rw [PbRun.rep_eq, repLength_eq, PbRun.input]
  cases (s.src.readBytes 0 u.srcLen.toNat)[u.inPos + 1]? <;> rfl

/-- Settles O49: the no-operation token's turn. -/
theorem nopTokenSkips : Obligations.NopTokenSkips := fun _ _ hu hw => onRun_some hu hw

/-! ## The loop of R120, token by token -/

/-- What the token of control byte `c` appends, with the bytes `rest` after it (R121 to R123). -/
def tokenRun (c : Byte) (rest : List Byte) : List Byte :=
  if c.toNat < 128 then rest.take (c.toNat + 1)
  else if c.toNat = 128 then []
  else rest.head?.elim [] (List.replicate (257 - c.toNat))

/-- How many bytes the token of control byte `c` takes after it (R84). -/
def tokenData (c : Byte) : Nat := if c.toNat < 128 then c.toNat + 1 else if c.toNat = 128 then 0 else 1

@[simp] theorem packBitsLoop_nil (fuel : Nat) : packBitsLoop fuel [] = [] := by cases fuel <;> rfl

theorem packBitsLoop_cons (fuel : Nat) (c : Byte) (rest : List Byte) :
    packBitsLoop (fuel + 1) (c :: rest) = tokenRun c rest ++ packBitsLoop fuel (rest.drop (tokenData c)) := by
  rw [packBitsLoop.eq_def, tokenRun, tokenData]
  dsimp only
  rcases control_cases c with hlit | rfl | hrep
  · simp only [hlit, Nat.le_of_lt_succ hlit, if_true]
  · rfl
  · have hlit : ¬ c.toNat ≤ 0x7F := by omega
    have hnop : c.toNat ≠ 128 := by omega
    simp only [hlit, hrep.not_gt, hnop, if_false]
    cases rest with
    | nil => simp
    | cons b more => rfl

/-- A token appends at most 128 samples, in each class (R127). -/
theorem length_tokenRun_le (c : Byte) (rest : List Byte) : (tokenRun c rest).length ≤ 128 := by
  unfold tokenRun
  split
  · next hlit => exact (List.length_take_le ..).trans hlit
  · split
    · exact Nat.zero_le _
    · cases rest with
      | nil => exact Nat.zero_le _
      | cons b more =>
        show (List.replicate _ b).length ≤ 128
        rw [List.length_replicate]
        omega

theorem length_packBitsLoop_le (fuel : Nat) (s : List Byte) : (packBitsLoop fuel s).length ≤ 128 * s.length := by
  induction fuel generalizing s with
  | zero => exact Nat.zero_le _
  | succ f ih =>
    cases s with
    | nil => exact Nat.zero_le _
    | cons c rest =>
      have hrun := length_tokenRun_le c rest
      have hrest := ih (rest.drop (tokenData c))
      have hdrop := List.length_drop (i := tokenData c) (l := rest)
      rw [packBitsLoop_cons, List.length_append, List.length_cons]
      omega

/-- Settles O53: every token appends at most 128 samples and takes at least its control byte. -/
theorem packBitsSizeBound : Obligations.PackBitsSizeBound := fun s => length_packBitsLoop_le s.length s

/-! ## The token machine is the loop, cut at the capacity -/

/-- One turn of the token machine is one token of R120 at `in_pos`. -/
theorem PbRun.token_spec {u : PbRun} (hout : u.outCnt ≤ u.cap) (src : Window) :
    (u.token src).inPos = u.inPos + (1 + tokenData (u.fetch src)) ∧
    (u.token src).out =
      (u.out ++ tokenRun (u.fetch src) ((u.input src).drop (u.inPos + 1))).take u.cap := by
  rcases u.token_cases src with ⟨count, hd, e⟩ | ⟨hd, e⟩ | ⟨low, hd, e⟩ <;> rw [e]
  · rw [eq_of_decodeControl_lit hd, PbRun.lit_eq]
    simp only [tokenData, tokenRun, toNat_zero_append, count.isLt, if_true, and_self]
  · rw [eq_of_decodeControl_nop hd]
    simp [tokenData, tokenRun, PbRun.nop, List.take_of_length_le hout]
  · obtain ⟨hc, hrep⟩ := eq_of_decodeControl_rep hd
    have hnop : (u.fetch src).toNat ≠ 128 := by omega
    rw [PbRun.rep_eq, repLength_eq, ← hc]
    simp only [tokenData, tokenRun, hrep.not_gt, hnop, if_false, List.head?_drop, and_self]

/-- The input from `in_pos` on is the control byte and what follows it. -/
theorem PbRun.drop_input {u : PbRun} (hpos : u.inPos < u.srcLen.toNat) (src : Window) :
    (u.input src).drop u.inPos = u.fetch src :: (u.input src).drop (u.inPos + 1) := by
  have hget : (u.input src)[u.inPos]? = some (u.fetch src) := by rw [PbRun.input_getElem?, if_pos hpos, PbRun.fetch]
  obtain ⟨hlt, hget⟩ := List.getElem?_eq_some_iff.1 hget
  rw [List.drop_eq_getElem_cons hlt, hget]

/-- What a cut at the capacity drops, no later cut would have kept. -/
theorem take_append_of_take (l m : List Byte) (k : Nat) : (l.take k ++ m).take k = (l ++ m).take k := by
  rw [List.take_append, List.take_append, List.take_take, List.length_take, Nat.min_self]
  congr 2
  omega

theorem PbRun.exhausted_eq_true {u : PbRun} : u.exhausted = true ↔ u.srcLen.toNat ≤ u.inPos ∨ u.cap ≤ u.outCnt := by
  simp [PbRun.exhausted]

/-- From any turn on, the machine's samples are those produced so far and those of the loop, up to the capacity: input
exhausted, capacity reached (R124), or one more token. -/
theorem PbRun.drain_out (fuel : Nat) (src : Window) {u : PbRun} (hout : u.outCnt ≤ u.cap) :
    (PbRun.drain fuel src u).out = (u.out ++ packBitsLoop fuel ((u.input src).drop u.inPos)).take u.cap := by
  induction fuel generalizing u with
  | zero => simp [PbRun.drain, packBitsLoop, List.take_of_length_le hout]
  | succ f ih =>
    cases he : u.exhausted with
    | true =>
      rw [PbRun.drain_exhausted he]
      rcases PbRun.exhausted_eq_true.1 he with hin | hcap
      · have hnil : (u.input src).drop u.inPos = [] := List.drop_eq_nil_of_le (by simpa [PbRun.input] using hin)
        rw [hnil, packBitsLoop_nil, List.append_nil, List.take_of_length_le hout]
      · exact (List.take_left' (Nat.le_antisymm hout hcap)).symm
    | false =>
      obtain ⟨-, hlen, -, hkeep, -, hwithin⟩ := u.token_frame src
      obtain ⟨hpos, hrun⟩ := PbRun.token_spec hout src
      have hinput : (u.token src).input src = u.input src := by rw [PbRun.input, hlen, PbRun.input]
      rw [PbRun.drain, he, if_neg Bool.false_ne_true, ih (hkeep ▸ hwithin hout), hinput, hkeep, hrun, hpos,
        PbRun.drop_input (PbRun.exhausted_eq_false.1 he).1, packBitsLoop_cons, List.drop_drop, take_append_of_take,
        List.append_assoc, Nat.add_assoc]

/-- Settles O51: both start at the first byte with nothing produced, and take as many turns. -/
theorem tokenMachineIsThePrefixOfPB : Obligations.TokenMachineIsThePrefixOfPB := by
  intro src len k
  rw [packBitsSamples, PbRun.drain_out _ _ (Nat.zero_le _), packBits, Window.length_readBytes]
  rfl

end Sys2Proof.Machine
end

section
/-! PROOF. Lines in Gray and Monochrome sessions (R112 to R114): what the three forms that read input deliver, the bits of a
packed line, and the spans that WhiteFill fills. -/

namespace Sys2Proof.Machine

open Sys2Proof.Claims

/-! ## The bits of a packed line -/

/-- Sample `i` exists and is white (R144). -/
def IsWhite (seq : List Byte) (i : Nat) : Prop := ∃ x, seq[i]? = some x ∧ 128 ≤ x.toNat

theorem quantBit_eq_true {x : Byte} : quantBit x = true ↔ 128 ≤ x.toNat := by simp [quantBit]

theorem isWhite_snoc (seq : List Byte) (x : Byte) (i : Nat) :
    IsWhite (seq ++ [x]) i ↔ IsWhite seq i ∨ (i = seq.length ∧ 128 ≤ x.toNat) := by
  unfold IsWhite
  rcases Nat.lt_trichotomy i seq.length with hlt | rfl | hgt
  · simp [List.getElem?_append_left hlt, hlt.ne]
  · simp
  · simp [List.getElem?_append_right hgt.le, List.getElem?_eq_none hgt.le, hgt.ne', Nat.sub_ne_zero_of_lt hgt]

theorem getD_snoc (l : List Byte) (x : Byte) (j : Nat) :
    ((l ++ [x])[j]?).getD 0#8 = if j = l.length then x else (l[j]?).getD 0#8 := by
  rcases Nat.lt_trichotomy j l.length with hlt | rfl | hgt
  · rw [List.getElem?_append_left hlt, if_neg hlt.ne]
  · simp
  · rw [List.getElem?_eq_none (by rw [List.length_append]; exact hgt), List.getElem?_eq_none hgt.le, if_neg hgt.ne']

/-- Byte `j` of the line so far: the partial byte stands after those put out, and past it there is nothing set. -/
def Quantizer.byteAt (q : Quantizer) (j : Nat) : Byte :=
  if j = q.packed.length then q.acc else (q.packed[j]?).getD 0#8

/-- A push sets at most a bit of the partial byte, also where that is then put out, and leaves every other byte. -/
theorem Quantizer.byteAt_push (q : Quantizer) (x : Byte) (j : Nat) :
    (q.push x).byteAt j =
      if j = q.packed.length then (if quantBit x then q.acc ||| (0x80#8 >>> q.accCnt.toNat) else q.acc)
      else q.byteAt j := by
  unfold Quantizer.push Quantizer.byteAt
  by_cases hfull : q.accCnt = 7#3
  · simp only [hfull, if_true, getD_snoc, List.length_append, List.length_singleton]
    by_cases hlast : j = q.packed.length + 1
    · simp [hlast]
    · simp only [hlast, if_false]
      split <;> rfl
  · simp only [hfull, if_false]
    split <;> rfl

/-- Every bit of the line so far is its sample's, and 0 where there is no sample yet (R141, R144). -/
theorem Quantizer.byteAt_after (seq : List Byte) (j b : Nat) (hb : b < 8) :
    ((Quantizer.after seq).byteAt j).getMsbD b = true ↔ IsWhite seq (8 * j + b) := by
  induction seq using List.reverseRecOn with
  | nil =>
    have hzero : (Quantizer.after []).byteAt j = 0#8 := by
      simp [Quantizer.byteAt, Quantizer.after, Quantizer.start]
    simp [hzero, IsWhite]
  | append_singleton seq x ih =>
    have hcount := Quantizer.count_after seq
    have hcnt := (Quantizer.after seq).accCnt.isLt
    rw [Quantizer.after_snoc, Quantizer.byteAt_push, isWhite_snoc, ← ih]
    by_cases hj : j = (Quantizer.after seq).packed.length
    · have hpos : 8 * j + b = seq.length ↔ b = (Quantizer.after seq).accCnt.toNat := by omega
      rw [if_pos hj, Quantizer.push_bit _ _ _ _ hb, quantBit_eq_true, hpos, Quantizer.byteAt, if_pos hj]
    · have hpos : 8 * j + b ≠ seq.length := by omega
      simp [hj, hpos]

/-- The bytes put out at the end are those of the line so far. -/
theorem Quantizer.getElem?_flush {q : Quantizer} {j : Nat} (hj : j < q.flush.length) :
    (q.flush[j]?).getD 0#8 = q.byteAt j := by
  by_cases hwhole : q.accCnt = 0#3
  · rw [Quantizer.flush, if_pos hwhole] at hj ⊢
    rw [Quantizer.byteAt, if_neg hj.ne]
  · rw [Quantizer.flush, if_neg hwhole, getD_snoc, Quantizer.byteAt]

/-- The quantizer packs its samples as R141, R143 and R144 say. -/
theorem packsTo_quantize (seq : List Byte) : PacksTo seq (quantize seq) := by
  refine ⟨length_quantize seq, fun j b hj hb => ?_⟩
  rw [quantize, Quantizer.getElem?_flush hj]
  exact Quantizer.byteAt_after seq j b hb

/-! ## What a record decodes to -/

theorem length_samplesOf_le (i : Instr) (src : Window) (k : Nat) : (samplesOf i src k).length ≤ k := by
  cases i with
  | submitFill => exact (List.length_replicate ..).le
  | submitRaw => exact List.length_take_le ..
  | submitPackBits => exact List.length_take_le ..
  | submitUnknown => exact List.length_take_le ..
  | _ => exact Nat.zero_le _

/-- A record that passes its checks and reads input delivers what it decodes to at the capacity of R111. -/
theorem exec_decoding_eq_deliver {i : Instr} {tag : PlaneTag} {len cap : Word} {s : State}
    (hi : IsDecoding i tag true true len cap) (hl : s.lc = .opened) (hw : s.windowsOk len cap) :
    exec i s = deliver (samplesOf i s.src (s.sampleCap cap)) tag cap s := by
  rcases hi with rfl | rfl | ⟨comp, rfl⟩
  · exact (submit_body hl hw).trans (by rw [rawSamples_eq_take, samplesOf])
  · exact (submit_body hl hw).trans (by rw [tokenMachineIsThePrefixOfPB, samplesOf])
  · exact (submit_body hl hw).trans (by rw [rawSamples_eq_take, samplesOf])

theorem exec_fill_eq_deliverFill {cap : Word} {s : State} (hl : s.lc = .opened) (hw : s.windowsOk 0#32 cap)
    (tag : PlaneTag) (len : Word) : exec (.submitFill tag true true len cap) s = deliverFill tag cap s :=
  submit_body hl hw

theorem lineWritten_emitLine (bytes : List Byte) (s : State) : LineWritten s (emitLine bytes s) bytes :=
  ⟨fun a => Window.read_writeBytes_zero s.dst bytes a, rfl, rfl⟩

/-! ## Lines -/

/-- Settles O26: in a Gray session the samples are the line. -/
theorem grayLineIsTheDecodedSamples : Obligations.GrayLineIsTheDecodedSamples := by
  intro i tag len cap s hi hl hw hm
  have hcap : s.sampleCap cap = cap.toNat := by rw [State.sampleCap, hm]
  rw [exec_decoding_eq_deliver hi hl hw, deliver_gray hm, hcap]
  exact ⟨_, rfl, lineWritten_emitLine _ s⟩

/-- Settles O27: in a Monochrome session the packed samples are the line. -/
theorem monoLineIsThePackedSamples : Obligations.MonoLineIsThePackedSamples := by
  intro i tag len cap s hi hl hw hm
  have hcap : s.sampleCap cap = min s.n.toNat (8 * cap.toNat) := by rw [State.sampleCap, hm]
  rw [exec_decoding_eq_deliver hi hl hw, deliver_mono hm, hcap]
  refine ⟨_, _, rfl, packsTo_quantize _, ?_, lineWritten_emitLine _ s⟩
  have hlen := length_samplesOf_le i s.src (min s.n.toNat (8 * cap.toNat))
  rw [length_quantize]
  omega

/-! ## Planes -/

theorem planeTakes_planeSink (p : Plane) (seq : List Byte) (ps : Planes) : PlaneTakes ps (planeSink p seq ps) p seq :=
  ⟨planeSink_read p seq ps, fun _ hq => planeSink_other hq seq ps⟩

/-- A tagged record goes to the plane that its tag names, whatever else it does to the row (R151, R152). -/
theorem assemble_planes {s : State} {ps : Planes} (hps : s.planes = some ps) {tag : PlaneTag} {p : Plane}
    (htag : (tag = .red ∧ p = .red) ∨ (tag = .green ∧ p = .green) ∨ (tag = .blue ∧ p = .blue)) (seq : List Byte)
    (cap : Word) : ∃ t, assemble tag seq cap s = .next t ∧ t.planes = some (planeSink p seq ps) := by
  rw [assemble_allocated hps]
  rcases htag with ⟨rfl, rfl⟩ | ⟨rfl, rfl⟩ | ⟨rfl, rfl⟩
  · exact ⟨_, rfl, rfl⟩
  · exact ⟨_, rfl, rfl⟩
  · refine ⟨_, rfl, ?_⟩
    rcases s.row_cases with hrow | ⟨hr, hg⟩
    · dsimp only
      rw [assembleBlue_partial hrow]
      rfl
    · dsimp only
      rw [assembleBlue_complete hr hg]
      rfl

/-- Settles O28: the destination is filled as one line, a plane as one record of N samples. -/
theorem whiteFillFillsTheWholeSpan : Obligations.WhiteFillFillsTheWholeSpan := by
  intro tag len cap s hl hw
  rw [exec_fill_eq_deliverFill hl hw]
  refine ⟨fun hm => ?_, fun ps p hm hps htag => ?_⟩
  · rw [deliverFill_line hm]
    exact ⟨_, rfl, lineWritten_emitLine _ s⟩
  · rw [deliverFill_rgb hm]
    obtain ⟨t, ht, hplanes⟩ := assemble_planes hps htag (whiteSamples s.n.toNat) cap
    exact ⟨t, _, ht, hplanes, planeTakes_planeSink p _ ps⟩

/-- Settles O29: both forms have the same meaning. -/
theorem unknownCodeIsRawCopy : Obligations.UnknownCodeIsRawCopy := fun _ _ _ _ _ _ _ => rfl

/-! ## An empty source -/

theorem samplesOf_empty {i : Instr} {tag : PlaneTag} {srcp dstp : Bool} {cap : Word}
    (hi : IsDecoding i tag srcp dstp 0#32 cap) (src : Window) (k : Nat) : samplesOf i src k = [] := by
  rcases hi with rfl | rfl | ⟨comp, rfl⟩
  · exact List.take_nil
  · exact List.take_nil
  · exact List.take_nil

@[simp] theorem toSpan_nil (s : State) : s.toSpan [] = [] := by
  unfold State.toSpan
  split <;> rfl

@[simp] theorem planeSink_nil (p : Plane) (ps : Planes) : planeSink p [] ps = ps := by cases p <;> rfl

/-- Putting back the planes that a state has changes nothing. -/
theorem setPlanes_self {s : State} {ps : Planes} (hps : s.planes = some ps) : s.setPlanes ps = s := by
  rw [State.setPlanes, ← hps]

/-- Settles O42: an empty line and an empty record write nothing, and a WhiteFill does not look at L. -/
theorem zeroLengthInput : Obligations.ZeroLengthInput := by
  refine ⟨fun i tag cap s hi hl hw => ?_, fun _ _ _ _ _ _ => rfl⟩
  rw [exec_decoding_eq_deliver hi hl hw, samplesOf_empty hi]
  refine ⟨fun hm => ?_, fun hm hplanes htag => ?_, fun hm hplanes htag => ?_⟩
  · rw [deliver_eq_route, route, if_neg hm, toSpan_nil]
    rfl
  · obtain ⟨ps, hps⟩ := Option.ne_none_iff_exists'.1 hplanes
    rw [deliver_rgb hm, assemble_allocated hps, htag]
    dsimp only
    rw [assembleRed, planeSink_nil, setPlanes_self hps]
    rfl
  · obtain ⟨ps, hps⟩ := Option.ne_none_iff_exists'.1 hplanes
    rw [deliver_rgb hm, assemble_allocated hps, htag]
    dsimp only
    rw [assembleGreen, planeSink_nil, setPlanes_self hps]
    rfl

end Sys2Proof.Machine
end

section
/-! PROOF. A whole row of an RGB session (R150 to R156): full RawCopy records one after the other, and the interleaved row as
it stands in the destination. -/

namespace Sys2Proof.Machine

open Sys2Proof.Claims

/-! ## Full records -/

/-- An RGB session of `n` pixels between two records: its planes, and a destination on which no duty is broken. -/
structure RowInProgress (n : BitVec 16) (dst : Window) (ps : Planes) (s : State) : Prop where
  lc : s.lc = .opened
  mode : s.mode = .rgb24
  n : s.n = n
  overlap : s.overlap = false
  short : s.short = false
  dst : s.dst = dst
  planes : s.planes = some ps

section
variable {n : BitVec 16} {dst : Window} {ps : Planes} {s : State} (h : RowInProgress n dst ps s) {w : Window}
  {len cap : Word} (hlen : len.toNat ≤ w.size) (hcap : cap.toNat ≤ dst.size) (hn : n.toNat ≤ len.toNat)
include h

theorem RowInProgress.setSrc (w : Window) : RowInProgress n dst ps (s.setSrc w) := { h with }

/-- Filling a plane, setting flags and answering leave the row in progress, with that plane's new bytes. -/
theorem RowInProgress.record (p : Plane) (seq : List Byte) (rf gf : Bool) (status : Status) (w1 w2 : Word) :
    RowInProgress n dst (planeSink p seq ps)
      (((s.setPlanes (planeSink p seq ps)).setFlags rf gf).respond status w1 w2) :=
  { h with planes := rfl }

include hlen hcap hn

/-- A RawCopy record of at least N bytes brings the plane assembler the first N of its source (R118, R150). -/
theorem RowInProgress.exec_fullRaw (tag : PlaneTag) :
    exec (.submitRaw tag true true len cap) (s.setSrc w) = assemble tag (w.readBytes 0 n.toNat) cap (s.setSrc w) := by
  obtain ⟨hl, hm, rfl, ho, hs, rfl, -⟩ := h.setSrc w
  have hk : (s.setSrc w).sampleCap cap = (s.setSrc w).n.toNat := by rw [State.sampleCap, hm]
  rw [exec_decoding_eq_deliver (.inl rfl) hl ⟨ho, hs, hlen, hcap⟩, deliver_rgb hm, hk, samplesOf, Window.take_readBytes,
    Nat.min_eq_right hn]
  rfl

/-- A full Red record fills its plane and sets its flag (R151). -/
theorem RowInProgress.fullRed :
    ∃ t, exec (.submitRaw .red true true len cap) (s.setSrc w) = .next t ∧
      RowInProgress n dst (planeSink .red (w.readBytes 0 n.toNat) ps) t ∧ t.rf = true :=
  ⟨_, (h.exec_fullRaw hlen hcap hn .red).trans (assemble_allocated (h.setSrc w).planes ..),
    (h.setSrc w).record .red _ true s.gf .buffered 0#32 0#32, rfl⟩

/-- So does a full Green record, which keeps the flag of Red (R151). -/
theorem RowInProgress.fullGreen :
    ∃ t, exec (.submitRaw .green true true len cap) (s.setSrc w) = .next t ∧
      RowInProgress n dst (planeSink .green (w.readBytes 0 n.toNat) ps) t ∧ t.rf = s.rf ∧ t.gf = true :=
  ⟨_, (h.exec_fullRaw hlen hcap hn .green).trans (assemble_allocated (h.setSrc w).planes ..),
    (h.setSrc w).record .green _ s.rf true .buffered 0#32 0#32, rfl, rfl⟩

/-- With both flags set and room for the row, a full Blue record emits all N pixels and clears the flags (R153). -/
theorem RowInProgress.fullBlue (hr : s.rf = true) (hg : s.gf = true) (hrow : 3 * n.toNat ≤ cap.toNat) :
    ∃ t, exec (.submitRaw .blue true true len cap) (s.setSrc w) =
        .next (emitLine (interleave (planeSink .blue (w.readBytes 0 n.toNat) ps) 0 n.toNat) t) ∧
      t.dst = dst ∧ t.rf = false ∧ t.gf = false := by
  have hpixels : rowPixels (s.setSrc w).n cap = n.toNat := by
    rw [(h.setSrc w).n, rowPixels]
    omega
  have hblue := assembleBlue_complete (s := s.setSrc w) hr hg (w.readBytes 0 n.toNat) cap ps
  rw [hpixels] at hblue
  have hexec := (h.exec_fullRaw hlen hcap hn .blue).trans (assemble_allocated (h.setSrc w).planes ..)
  exact ⟨_, hexec.trans (congrArg Host.Outcome.next hblue), h.dst, rfl, rfl⟩

end

/-! ## The row in the destination -/

/-- Below its end an emitted row reads pixel by pixel from the planes (R156). -/
theorem read_emitted_row (ps : Planes) (s : State) {n k : Nat} (hk : k < n) :
    (emitLine (interleave ps 0 n) s).dst.read (3 * k) = (ps.get .red).read k ∧
    (emitLine (interleave ps 0 n) s).dst.read (3 * k + 1) = (ps.get .green).read k ∧
    (emitLine (interleave ps 0 n) s).dst.read (3 * k + 2) = (ps.get .blue).read k := by
  obtain ⟨hr, hg, hb⟩ := interleave_getElem? ps 0 n k hk
  simp only [emitLine_dst, Window.read_writeBytes_zero, hr, hg, hb, Nat.zero_add, Option.getD_some]
  exact ⟨rfl, rfl, rfl⟩

/-- From its end on the destination keeps its bytes. -/
theorem read_past_emitted_row (ps : Planes) (s : State) {n a : Nat} (ha : 3 * n ≤ a) :
    (emitLine (interleave ps 0 n) s).dst.read a = s.dst.read a := by
  have hnone : (interleave ps 0 n)[a]? = none := List.getElem?_eq_none (by rwa [length_interleave])
  rw [emitLine_dst, Window.read_writeBytes_zero, hnone, Option.getD_none]

/-- The plane of a full record reads as its source window. -/
theorem planeSink_readBytes {w : Window} {n k : Nat} (hk : k < n) (p : Plane) (ps : Planes) :
    ((planeSink p (w.readBytes 0 n) ps).get p).read k = w.read k := by
  rw [planeSink_read, Window.getElem?_readBytes, if_pos hk, Nat.zero_add, Option.getD_some]

/-- The planes after Red, Green and Blue records of these sources. -/
def rowPlanes (n : Nat) (r g b : Window) (ps : Planes) : Planes :=
  planeSink .blue (b.readBytes 0 n) (planeSink .green (g.readBytes 0 n) (planeSink .red (r.readBytes 0 n) ps))

/-- Each plane reads as its own record's source: the later records leave it alone. -/
theorem read_rowPlanes {n k : Nat} (hk : k < n) (r g b : Window) (ps : Planes) :
    ((rowPlanes n r g b ps).get .red).read k = r.read k ∧ ((rowPlanes n r g b ps).get .green).read k = g.read k ∧
    ((rowPlanes n r g b ps).get .blue).read k = b.read k :=
  ⟨planeSink_readBytes hk .red ps, planeSink_readBytes hk .green _, planeSink_readBytes hk .blue _⟩

/-- Settles O36: the Red and the Green record fill their planes and set both flags, so the Blue one emits the row of the
three planes. -/
theorem threeRecordsEmitTheInterleavedRow : Obligations.ThreeRecordsEmitTheInterleavedRow := by
  intro s ps r g b lr lg lb cr cg cb hl hm ho hs hps hr hg hb hcr hcg hcb hnr hng hnb hroom
  have hrow : RowInProgress s.n s.dst ps s := ⟨hl, hm, rfl, ho, hs, rfl, hps⟩
  obtain ⟨t1, hred, hrow1, hrf1⟩ := hrow.fullRed hr hcr hnr
  obtain ⟨t2, hgreen, hrow2, hrf2, hgf2⟩ := hrow1.fullGreen hg hcg hng
  obtain ⟨t3, hblue, hdst, hrf3, hgf3⟩ := hrow2.fullBlue hb hcb hnb (hrf2.trans hrf1) hgf2 hroom
  refine ⟨t1, t2, _, hred, hgreen, hblue, fun k hk => ?_, fun a ha => ?_, ?_, hrf3, hgf3⟩
  · obtain ⟨h1, h2, h3⟩ := read_rowPlanes hk r g b ps
    rw [← h1, ← h2, ← h3]
    exact read_emitted_row _ t3 hk
  · rw [read_past_emitted_row _ t3 ha, hdst]
  · rw [emitLine_response, length_interleave]
    rfl

end Sys2Proof.Machine
end

section
/-! PROOF. The bit quantizer (R146): the length of the packed line and every bit of it. -/

namespace Sys2Proof.Machine

/-- Settles O54: the bit count gives the length (`length_quantize`), and an induction over the samples, one push each, gives
every bit, padding included (`Quantizer.byteAt_after`). -/
theorem quantizerBits : Obligations.QuantizerBits := packsTo_quantize

end Sys2Proof.Machine
end

section
/-! PROOF. Single records in an RGB session (R150 to R158): what the plane assembler makes of each tag, whatever the form
of the SUBMIT. -/

namespace Sys2Proof.Machine

open Sys2Proof.Claims

/-! ## What a SUBMIT brings to the plane assembler -/

/-- In an RGB session the bytes for the span are the first N decoded samples, never quantized (R115, R151). -/
theorem spanBytes_rgb {s : State} (hm : s.mode = .rgb24) (i : Instr) :
    spanBytes i s = samplesOf i s.src s.n.toNat := by
  cases i with
  | submitRaw | submitUnknown =>
    simp only [spanBytes, State.toSpan, State.sampleCap, hm, reduceCtorEq, if_false, rawSamples_eq_take, samplesOf]
  | submitFill => simp only [spanBytes, State.spanLen, hm, if_true, whiteSamples, samplesOf]
  | submitPackBits =>
    simp only [spanBytes, State.toSpan, State.sampleCap, hm, reduceCtorEq, if_false, tokenMachineIsThePrefixOfPB _ _ _,
      samplesOf]
  | openSession | close | illegal | pbNop | pbLit | pbRep => rfl

section
variable {i : Instr} {tag : PlaneTag} {srcp dstp : Bool} {len cap : Word} {s t : State}

theorem route_spanBytes_rgb (hm : s.mode = .rgb24) :
    route tag cap (spanBytes i s) s = assemble tag (samplesOf i s.src s.n.toNat) cap s := by
  rw [route, if_pos hm, spanBytes_rgb hm]

/-- A record that passes its checks goes to the plane assembler (R177). -/
theorem exec_rgb_record (hi : IsSubmit i tag true true len cap) (hl : s.lc = .opened) (hw : s.windowsOk len cap)
    (hm : s.mode = .rgb24) : exec i s = assemble tag (samplesOf i s.src s.n.toNat) cap s := by
  obtain ⟨reach, hle, hexec⟩ := exec_submit hi
  have hreach : s.windowsOk reach cap := dutiesKept_present.1 (dutiesKept_mono hle (dutiesKept_present.2 hw))
  rw [hexec, submit_body hl hreach, route_spanBytes_rgb hm]

/-- Where a window is absent a SUBMIT is answered FAULT (R201). -/
theorem exec_submit_absent (hi : IsSubmit i tag srcp dstp len cap) (hd : s.dutiesKept srcp dstp len cap)
    (h : srcp = false ∨ dstp = false) : exec i s = .next (s.respond .fault 0#32 0#32) := by
  obtain ⟨reach, hle, hexec⟩ := exec_submit hi
  rw [hexec, submit_fault (.inr h), onWindows_kept (dutiesKept_mono hle hd)]

/-- Everything that a SUBMIT in an open RGB session can answer: FAULT for an absent window, or what the plane assembler
does. -/
theorem exec_rgb_next (hi : IsSubmit i tag srcp dstp len cap) (hl : s.lc = .opened) (hm : s.mode = .rgb24)
    (h : exec i s = .next t) :
    ((srcp = false ∨ dstp = false) ∧ t = s.respond .fault 0#32 0#32) ∨
      assemble tag (samplesOf i s.src s.n.toNat) cap s = .next t := by
  obtain ⟨reach, -, hexec⟩ := exec_submit hi
  rw [hexec] at h
  rcases (submit_next h).2 with ⟨rfl, hclosed | habsent⟩ | ⟨-, -, -, -, hroute⟩
  · exact absurd hl hclosed
  · exact .inl ⟨habsent, rfl⟩
  · exact .inr (route_spanBytes_rgb hm ▸ hroute)

end

/-! ## Red and Green records -/

/-- The state after a record that only fills its plane and sets that plane's flag (R151). -/
def bufferRecord (p : Plane) (seq : List Byte) (ps : Planes) (s : State) : State :=
  ((s.setPlanes (planeSink p seq ps)).setFlags (s.rf || decide (p = .red)) (s.gf || decide (p = .green))).respond
    .buffered 0#32 0#32

theorem assembleRed_eq_bufferRecord (seq : List Byte) (ps : Planes) (s : State) :
    assembleRed seq ps s = bufferRecord .red seq ps s := by
  simp [assembleRed, bufferRecord]

theorem assembleGreen_eq_bufferRecord (seq : List Byte) (ps : Planes) (s : State) :
    assembleGreen seq ps s = bufferRecord .green seq ps s := by
  simp [assembleGreen, bufferRecord]

theorem planeSink_comm {p q : Plane} (h : p ≠ q) (seq seq' : List Byte) (ps : Planes) :
    planeSink p seq (planeSink q seq' ps) = planeSink q seq' (planeSink p seq ps) := by
  cases p with
  | red =>
    cases q with
    | red => exact absurd rfl h
    | green | blue => rfl
  | green =>
    cases q with
    | green => exact absurd rfl h
    | red | blue => rfl
  | blue =>
    cases q with
    | blue => exact absurd rfl h
    | red | green => rfl

/-- Two records of different planes give the same state in either order: each has its own plane and flag (R158 (c)). -/
theorem bufferRecord_comm {p q : Plane} (h : p ≠ q) (seq seq' : List Byte) (ps : Planes) (s : State) :
    bufferRecord p seq (planeSink q seq' ps) (bufferRecord q seq' ps s) =
      bufferRecord q seq' (planeSink p seq ps) (bufferRecord p seq ps s) := by
  simp only [bufferRecord, planeSink_comm h, State.respond_rf, State.respond_gf, State.setFlags_rf, State.setFlags_gf,
    Bool.or_right_comm _ (decide (p = _))]
  rfl

section
variable {tag : PlaneTag} {p : Plane} {s : State}
  (htag : (tag = .red ∧ p = .red) ∨ (tag = .green ∧ p = .green))
include htag

theorem assemble_redOrGreen {ps : Planes} (hps : s.planes = some ps) (seq : List Byte) (cap : Word) :
    assemble tag seq cap s = .next (bufferRecord p seq ps s) := by
  rw [assemble_allocated hps]
  rcases htag with ⟨rfl, rfl⟩ | ⟨rfl, rfl⟩
  · exact congrArg _ (assembleRed_eq_bufferRecord seq ps s)
  · exact congrArg _ (assembleGreen_eq_bufferRecord seq ps s)

/-- A Red or Green record that is answered with both windows present has been buffered in an allocated plane. -/
theorem exec_redOrGreen_next {i : Instr} {len cap : Word} {t : State} (hi : IsSubmit i tag true true len cap)
    (h : exec i s = .next t) (hl : s.lc = .opened) (hm : s.mode = .rgb24) :
    ∃ ps, s.planes = some ps ∧ t = bufferRecord p (samplesOf i s.src s.n.toNat) ps s := by
  rcases exec_rgb_next hi hl hm h with ⟨habsent, -⟩ | hassemble
  · simp at habsent
  · cases hps : s.planes with
    | none =>
      have htagged : tag ≠ .untagged := by rintro rfl; simp at htag
      rw [assemble_unallocated hps htagged] at hassemble
      cases hassemble
    | some ps =>
      rw [assemble_redOrGreen htag hps] at hassemble
      exact ⟨ps, rfl, (Host.Outcome.next.inj hassemble).symm⟩

end

/-- Settles O30: the record is buffered in the plane of its tag. -/
theorem redOrGreenRecordIsBuffered : Obligations.RedOrGreenRecordIsBuffered := by
  intro i tag p len cap s ps hi htag hl hw hm hps
  rw [exec_rgb_record hi hl hw hm, assemble_redOrGreen htag hps]
  exact ⟨_, _, rfl, rfl, planeTakes_planeSink p _ ps, rfl, rfl, rfl, rfl⟩

/-- Settles O35: both orders buffer the same samples in the same two planes. -/
theorem redAndGreenCommute : Obligations.RedAndGreenCommute := by
  intro i j l1 c1 l2 c2 s t1 t2 t1' t2' m m' hi hj hl hm hred hredGreen hgreen hgreenRed
  obtain ⟨ps, hps, rfl⟩ := exec_redOrGreen_next (.inl ⟨rfl, rfl⟩) hi hred hl hm
  obtain ⟨psRed, hpsRed, rfl⟩ := exec_redOrGreen_next (.inr ⟨rfl, rfl⟩) hj hredGreen hl hm
  obtain ⟨ps', hps', rfl⟩ := exec_redOrGreen_next (.inr ⟨rfl, rfl⟩) hj hgreen hl hm
  obtain ⟨psGreen, hpsGreen, rfl⟩ := exec_redOrGreen_next (.inl ⟨rfl, rfl⟩) hi hgreenRed hl hm
  obtain rfl : ps = ps' := Option.some.inj (hps.symm.trans hps')
  obtain rfl := Option.some.inj hpsRed
  obtain rfl := Option.some.inj hpsGreen
  exact (congrArg (State.setSrc · m')
    (bufferRecord_comm (p := .red) (q := .green) nofun (samplesOf i m s.n.toNat) (samplesOf j m' s.n.toNat) ps s) :)

/-! ## Blue records -/

/-- A Blue record that passes its checks is decoded into its plane and ends the row (R152). -/
theorem exec_blue_record {i : Instr} {len cap : Word} {s : State} {ps : Planes}
    (hi : IsSubmit i .blue true true len cap) (hl : s.lc = .opened) (hw : s.windowsOk len cap) (hm : s.mode = .rgb24)
    (hps : s.planes = some ps) :
    exec i s = .next (assembleBlue (samplesOf i s.src s.n.toNat) cap ps s) := by
  rw [exec_rgb_record hi hl hw hm, assemble_allocated hps]

/-- Settles O31: the row of the planes is emitted as one line of 3P bytes. -/
theorem blueRecordEmitsACompleteRow : Obligations.BlueRecordEmitsACompleteRow := by
  intro i len cap s ps hi hl hw hm hps hr hg
  rw [exec_blue_record hi hl hw hm hps, assembleBlue_complete hr hg]
  refine ⟨_, _, rowPixels s.n cap, rfl, rfl, planeTakes_planeSink .blue _ ps, rfl, ?_, ?_, ?_, rfl, rfl, ?_, rfl⟩
  · rw [rowPixels]; omega
  · exact fun k hk => read_emitted_row _ _ hk
  · exact fun a ha => read_past_emitted_row _ _ ha
  · rw [emitLine_response, length_interleave]; rfl

/-- Settles O32: the partial row is dropped. -/
theorem blueRecordDropsAPartialRow : Obligations.BlueRecordDropsAPartialRow := by
  intro i len cap s ps hi hl hw hm hps hrow
  rw [exec_blue_record hi hl hw hm hps, assembleBlue_partial hrow]
  exact ⟨_, _, rfl, rfl, planeTakes_planeSink .blue _ ps, rfl, rfl, rfl, rfl⟩

/-! ## Which records emit, and which end the row -/

section
variable {tag : PlaneTag} {seq : List Byte} {cap : Word} {s t : State} (h : assemble tag seq cap s = .next t)
include h

/-- Only a Blue record that finds both flags set is answered EMITTED (R151, R153, R154, R155). -/
theorem assemble_emitted {w1 w2 : Word} (hresp : t.response = answer .emitted w1 w2) :
    tag = .blue ∧ s.rf = true ∧ s.gf = true := by
  rcases assemble_next h with ⟨-, rfl⟩ | ⟨ps, -, ⟨-, rfl⟩ | ⟨-, rfl⟩ | ⟨rfl, rfl⟩⟩
  · cases hresp
  · cases hresp
  · cases hresp
  · rcases s.row_cases with hrow | hrow
    · rw [assembleBlue_partial hrow] at hresp
      cases hresp
    · exact ⟨rfl, hrow⟩

/-- Every Blue record clears both flags, whether it emits the row or drops it (R158 (d)). -/
theorem assemble_blue_clears_flags (htag : tag = .blue) : t.rf = false ∧ t.gf = false := by
  subst htag
  rcases assemble_next h with ⟨htag, -⟩ | ⟨ps, -, ⟨htag, -⟩ | ⟨htag, -⟩ | ⟨-, rfl⟩⟩
  · cases htag
  · cases htag
  · cases htag
  · rcases s.row_cases with hrow | ⟨hr, hg⟩
    · rw [assembleBlue_partial hrow]; exact ⟨rfl, rfl⟩
    · rw [assembleBlue_complete hr hg]; exact ⟨rfl, rfl⟩

end

/-- Settles O34: a FAULT emits nothing and is no record that is taken; the rest is the plane assembler's. -/
theorem emittedOnlyForAFullRow : Obligations.EmittedOnlyForAFullRow := by
  intro i tag srcp dstp len cap s t hi hl hm hexec
  rcases exec_rgb_next hi hl hm hexec with ⟨habsent, rfl⟩ | hassemble
  · refine ⟨fun ⟨_, _, hresp⟩ => ?_, fun _ hsrcp hdstp => ?_⟩
    · cases hresp
    · simp [hsrcp, hdstp] at habsent
  · exact ⟨fun ⟨_, _, hresp⟩ => assemble_emitted hassemble hresp,
      fun htag _ _ => assemble_blue_clears_flags hassemble htag⟩

/-! ## Untagged records -/

/-- Settles O33: with both windows the plane assembler answers BUFFERED, with one absent the checks answer FAULT. -/
theorem untaggedRecordIsIgnoredInRgb : Obligations.UntaggedRecordIsIgnoredInRgb := by
  intro i srcp dstp len cap s hi hl hd hm
  by_cases hpresent : srcp = true ∧ dstp = true
  · rw [if_pos hpresent]
    obtain ⟨rfl, rfl⟩ := hpresent
    exact exec_rgb_record hi hl (dutiesKept_present.1 hd) hm
  · rw [if_neg hpresent]
    have habsent : srcp = false ∨ dstp = false := by simpa [Decidable.imp_iff_not_or] using hpresent
    exact exec_submit_absent hi hd habsent

end Sys2Proof.Machine
end

section
/-! PROOF. Session control (R171 to R182): what OPEN answers in each of its three cases, what CLOSE leaves, that outside RGB
sessions the tag does not matter, and the lifecycle table. -/

namespace Sys2Proof.Machine

open Sys2Proof.Claims

/-! ## OPEN -/

/-- R101's effective mode is the one that the statements name. -/
theorem effectiveMode_eq_storedMode (mode : ModeField) : effectiveMode mode = storedMode mode := by
  cases mode <;> rfl

/-- The configuration unit's line, aligned or not, is R102's and R103's. -/
theorem alignBytes_effectiveMode (mode : ModeField) (n : Nat) (align : Bool) :
    alignBytes align (baseBytes (effectiveMode mode) n) = lineBytes mode n align := by
  rw [baseBytes_effectiveMode]
  cases align <;> rfl

section
variable {mode : ModeField} {n : BitVec 16} {s : State}

/-- No pixels: INVALID_CONFIG (R106, R174). -/
theorem execOpen_noPixels (mode : ModeField) (align : Bool) (s : State) :
    execOpen mode 0#16 align s = .next (cleared s .invalidConfig) := rfl

/-- Planes that do not fit: ALLOCATION_FAILURE (R174). -/
theorem execOpen_tooDeep (hn : n ≠ 0#16) (hdeep : s.cfg.planeDepth < n.toNat) (align : Bool) :
    execOpen .rgb24 n align s = .next (cleared s .allocationFailure) := by
  obtain ⟨g, hg⟩ := geometry_of_pos .rgb24 align hn
  obtain ⟨-, -, hmode, -, -⟩ := geometry_some hg
  simp only [execOpen, hg, hmode, effectiveMode, if_pos hdeep]
  rfl

/-- Anything else opens the session (R172), in RGB with zeroed planes (R173). -/
theorem execOpen_fits (hn : n ≠ 0#16) (hfits : ¬ (mode = .rgb24 ∧ s.cfg.planeDepth < n.toNat)) (align : Bool) :
    ∃ g, geometry mode n align = some g ∧
      execOpen mode n align s = .next ((s.install g n align
        (if mode = .rgb24 then some Planes.zeroed else none)).respond .ok g.bpl g.maxbuf) := by
  obtain ⟨t, ht⟩ := open_total mode n align s
  rcases open_next ht with ⟨hzero, -⟩ | ⟨hm, hdeep, -⟩ | ⟨g, hg, ⟨hm, -, rfl⟩ | ⟨hm, rfl⟩⟩
  · exact absurd hzero hn
  · exact absurd ⟨hm, hdeep⟩ hfits
  · exact ⟨g, hg, by rw [ht, if_pos hm]⟩
  · exact ⟨g, hg, by rw [ht, if_neg hm]⟩

end

/-- Settles O17: the two failures leave the cleared session, and the installed one has the layout of `geometry`. -/
theorem openOutcomes : Obligations.OpenOutcomes := by
  intro mode n align s
  refine ⟨?_, ?_, fun hn hfits => ?_⟩
  · rintro rfl
    exact execOpen_noPixels mode align s
  · rintro hn rfl hdeep
    exact execOpen_tooDeep hn hdeep align
  · obtain ⟨g, hg, hopen⟩ := execOpen_fits hn hfits align
    obtain ⟨-, -, hmode, hbpl, hmaxbuf⟩ := geometry_some hg
    rw [effectiveMode_eq_storedMode] at hmode
    rw [alignBytes_effectiveMode] at hbpl
    rw [hbpl] at hmaxbuf
    exact ⟨_, hopen, rfl, hmode, rfl, rfl, hbpl, hmaxbuf, rfl, rfl, rfl, rfl, rfl, rfl, rfl, rfl, rfl, rfl, rfl, rfl⟩

theorem Planes.read_zeroed (p : Plane) (a : Nat) : (Planes.zeroed.get p).read a = 0x00#8 := by
  cases p <;> rfl

/-- Settles O18: a failed OPEN does not leave the session Open, and a successful one installs zeroed planes in RGB and none
otherwise. -/
theorem freshPlanesReadZero : Obligations.FreshPlanesReadZero := by
  intro mode n align s t hopen hlc
  rcases open_next hopen with ⟨-, rfl⟩ | ⟨-, -, rfl⟩ | ⟨g, -, ⟨hm, -, rfl⟩ | ⟨hm, rfl⟩⟩
  · cases hlc
  · cases hlc
  · exact ⟨fun _ => ⟨Planes.zeroed, rfl, Planes.read_zeroed⟩, fun hne => absurd hm hne⟩
  · exact ⟨fun he => absurd he hm, fun _ => rfl⟩

/-! ## CLOSE -/

/-- Settles O20: CLOSE is `ClearSession` and the answer OK. -/
theorem closeClearsTheSession : Obligations.CloseClearsTheSession := fun _ => rfl

/-- Of a cleared session only the answer is left to change. -/
theorem cleared_cleared (s : State) (status status' : Status) : cleared (cleared s status) status' = cleared s status' :=
  rfl

/-- Settles O21: the second CLOSE clears a cleared session. -/
theorem closeIsIdempotent : Obligations.CloseIsIdempotent := by
  intro s t hclose
  cases (closeClearsTheSession s).symm.trans hclose
  exact ⟨by rw [closeClearsTheSession _, cleared_cleared], rfl⟩

/-! ## The tag -/

/-- Outside RGB sessions the routing does not look at the tag (R177). -/
theorem route_tag {s : State} (hm : s.mode ≠ .rgb24) (tag tag' : PlaneTag) (cap : Word) (bytes : List Byte) :
    route tag cap bytes s = route tag' cap bytes s := by
  rw [route, route, if_neg hm, if_neg hm]

/-- The shared checks run the form's own part on the state they are given, if at all. -/
theorem submit_congr {body body' : State → Result} {s : State} (h : body s = body' s) (srcp dstp : Bool) (len cap : Word) :
    submit srcp dstp len cap body s = submit srcp dstp len cap body' s := by
  rw [submit, submit, h]

/-- Settles O37: every form is the shared checks and the routing of its samples. -/
theorem tagIgnoredOutsideRgb : Obligations.TagIgnoredOutsideRgb := by
  intro tag tag' srcp dstp len cap comp s hm
  have hdeliver : ∀ seq, deliver seq tag cap s = deliver seq tag' cap s := fun seq => by
    rw [deliver_eq_route, deliver_eq_route, route_tag hm tag tag']
  have hfill : deliverFill tag cap s = deliverFill tag' cap s := by
    rw [deliverFill_eq_route, deliverFill_eq_route, route_tag hm tag tag']
  exact ⟨submit_congr (hdeliver _) .., submit_congr hfill .., submit_congr (hdeliver _) .., submit_congr (hdeliver _) ..⟩

/-! ## The lifecycle table -/

section
variable {s t : State}

/-- OPEN by its three cases, with its answer (R182). -/
theorem exec_open_transition {mode : ModeField} {n : BitVec 16} {align : Bool}
    (h : exec (.openSession mode n align) s = .next t) :
    ∃ r, t.response = some r ∧
      ((n ≠ 0#16 ∧ ¬ (mode = .rgb24 ∧ s.cfg.planeDepth < n.toNat) ∧ r.status = .ok ∧ t.lc = .opened) ∨
      (n = 0#16 ∧ t = cleared s .invalidConfig) ∨
      (n ≠ 0#16 ∧ mode = .rgb24 ∧ s.cfg.planeDepth < n.toNat ∧ t = cleared s .allocationFailure)) := by
  obtain ⟨hnoPixels, htooDeep, hfits⟩ := openOutcomes mode n align s
  by_cases hn : n = 0#16
  · cases h.symm.trans (hnoPixels hn)
    exact ⟨_, rfl, .inr (.inl ⟨hn, rfl⟩)⟩
  · by_cases hdeep : mode = .rgb24 ∧ s.cfg.planeDepth < n.toNat
    · cases h.symm.trans (htooDeep hn hdeep.1 hdeep.2)
      exact ⟨_, rfl, .inr (.inr ⟨hn, hdeep.1, hdeep.2, rfl⟩)⟩
    · obtain ⟨g, -, hopen⟩ := execOpen_fits hn hdeep align
      cases h.symm.trans hopen
      exact ⟨_, rfl, .inl ⟨hn, hdeep, rfl, rfl⟩⟩

/-- The plane assembler answers EMITTED or BUFFERED (R178). -/
theorem assemble_status {tag : PlaneTag} {seq : List Byte} {cap : Word} (h : assemble tag seq cap s = .next t) :
    ∃ r, t.response = some r ∧ (r.status = .emitted ∨ r.status = .buffered) := by
  rcases assemble_next h with ⟨-, rfl⟩ | ⟨ps, -, ⟨-, rfl⟩ | ⟨-, rfl⟩ | ⟨-, rfl⟩⟩
  · exact ⟨_, rfl, .inr rfl⟩
  · exact ⟨_, rfl, .inr rfl⟩
  · exact ⟨_, rfl, .inr rfl⟩
  · rcases s.row_cases with hrow | ⟨hr, hg⟩
    · rw [assembleBlue_partial hrow]
      exact ⟨_, rfl, .inr rfl⟩
    · rw [assembleBlue_complete hr hg]
      exact ⟨_, rfl, .inl rfl⟩

/-- So does the routing in any session. -/
theorem route_status {tag : PlaneTag} {cap : Word} {bytes : List Byte} (h : route tag cap bytes s = .next t) :
    ∃ r, t.response = some r ∧ (r.status = .emitted ∨ r.status = .buffered) := by
  unfold route at h
  split at h
  · exact assemble_status h
  · cases h
    exact ⟨_, rfl, .inl rfl⟩

/-- A SUBMIT leaves LC and answers FAULT where its structural checks fail, EMITTED or BUFFERED where they pass (R182). -/
theorem exec_submit_transition {i : Instr} {tag : PlaneTag} {srcp dstp : Bool} {len cap : Word}
    (hi : IsSubmit i tag srcp dstp len cap) (h : exec i s = .next t) :
    ∃ r, t.response = some r ∧ t.lc = s.lc ∧
      (s.lc ≠ .opened ∨ srcp = false ∨ dstp = false → r.status = .fault) ∧
      (s.lc = .opened → srcp = true → dstp = true → r.status = .emitted ∨ r.status = .buffered) := by
  have hlc : t.lc = s.lc := by cases exec_submit_effect hi h; rfl
  obtain ⟨reach, -, hexec⟩ := exec_submit hi
  rw [hexec] at h
  rcases (submit_next h).2 with ⟨rfl, hfails⟩ | ⟨hl, rfl, rfl, -, hroute⟩
  · exact ⟨_, rfl, rfl, fun _ => rfl, fun hl hsrcp hdstp => by simp [hl, hsrcp, hdstp] at hfails⟩
  · obtain ⟨r, hr, hstatus⟩ := route_status hroute
    exact ⟨r, hr, hlc, fun hfails => by simp [hl] at hfails, fun _ _ _ => hstatus⟩

end

theorem not_isSubmit_of_submitOperands_eq_none {i : Instr} {tag : PlaneTag} {srcp dstp : Bool} {len cap : Word}
    (h : submitOperands i = none) : ¬ IsSubmit i tag srcp dstp len cap := fun hi => by
  rw [submitOperands_eq_some_iff.2 hi] at h
  cases h

/-- Settles O43, by the kind of request: the four forms of SUBMIT, then OPEN, CLOSE and an illegal header. -/
theorem lifecycleTransitions : Obligations.LifecycleTransitions := by
  intro i s t hreq h
  cases ho : submitOperands i with
  | some o =>
    obtain ⟨r, hr, hsubmit⟩ := exec_submit_transition (submitOperands_eq_some_iff.1 ho) h
    refine ⟨r, hr, ?_, fun tag srcp dstp len cap hi => ?_, ?_, ?_⟩
    · rintro mode n align rfl
      cases ho
    · cases ho.symm.trans (submitOperands_eq_some_iff.2 hi)
      exact hsubmit
    · rintro rfl
      cases ho
    · rintro header rfl
      cases ho
  | none =>
    have hns : ∀ tag srcp dstp len cap, ¬ IsSubmit i tag srcp dstp len cap := fun _ _ _ _ _ =>
      not_isSubmit_of_submitOperands_eq_none ho
    cases i with
    | openSession mode n align =>
      obtain ⟨r, hr, hopen⟩ := exec_open_transition h
      refine ⟨r, hr, ?_, fun _ _ _ _ _ hi => absurd hi (hns _ _ _ _ _), nofun, nofun⟩
      rintro _ _ _ ⟨⟩
      exact hopen
    | close =>
      cases h
      exact ⟨_, rfl, nofun, fun _ _ _ _ _ hi => absurd hi (hns _ _ _ _ _), fun _ => rfl, nofun⟩
    | illegal header =>
      cases h
      exact ⟨_, rfl, nofun, fun _ _ _ _ _ hi => absurd hi (hns _ _ _ _ _), nofun, fun _ _ => ⟨rfl, rfl⟩⟩
    | submitRaw | submitFill | submitPackBits | submitUnknown => cases ho
    | pbNop | pbLit | pbRep => cases hreq

end Sys2Proof.Machine
end

section
/-! PROOF. Errors (R200 to R207): a request that does not succeed is one of two answers on an untouched state or one of two
on the cleared session. -/

namespace Sys2Proof.Machine

open Sys2Proof.Claims

/-- Settles O22: the meaning of ILLEGAL is its answer alone. -/
theorem illegalRequestHasNoEffect : Obligations.IllegalRequestHasNoEffect := fun _ _ => rfl

/-- Settles O23: every form runs the shared checks, which answer FAULT before the form's own part. -/
theorem submitStructuralFault : Obligations.SubmitStructuralFault := by
  intro i tag srcp dstp len cap s hi hfails hd
  obtain ⟨reach, hle, hexec⟩ := exec_submit hi
  rw [hexec, submit_fault hfails, onWindows_kept (dutiesKept_mono hle hd)]
  rfl

/-- How a request ends: it succeeds, whatever it then leaves, or it is an error, which fixes the whole next state. -/
inductive Ending (s t : State) : Prop
  | success (r : Response) (hr : t.response = some r)
      (hstatus : r.status = .ok ∨ r.status = .emitted ∨ r.status = .buffered)
  | fault (h : t = s.respond .fault 0#32 0#32)
  | illegalCommand (h : t = s.respond .illegalCommand 0#32 0#32)
  | invalidConfig (h : t = cleared s .invalidConfig)
  | allocationFailure (h : t = cleared s .allocationFailure)

section
variable {s t : State}

/-- A SUBMIT is a FAULT, or its routing answers EMITTED or BUFFERED (R175). -/
theorem exec_submit_ending {i : Instr} {tag : PlaneTag} {srcp dstp : Bool} {len cap : Word}
    (hi : IsSubmit i tag srcp dstp len cap) (h : exec i s = .next t) : Ending s t := by
  obtain ⟨reach, -, hexec⟩ := exec_submit hi
  rw [hexec] at h
  rcases (submit_next h).2 with ⟨hfault, -⟩ | ⟨-, -, -, -, hroute⟩
  · exact .fault hfault
  · obtain ⟨r, hr, hstatus⟩ := route_status hroute
    exact .success r hr (.inr hstatus)

theorem exec_open_ending {mode : ModeField} {n : BitVec 16} {align : Bool}
    (h : exec (.openSession mode n align) s = .next t) : Ending s t := by
  obtain ⟨r, hr, ⟨-, -, hok, -⟩ | ⟨-, hcleared⟩ | ⟨-, -, -, hcleared⟩⟩ := exec_open_transition h
  · exact .success r hr (.inl hok)
  · exact .invalidConfig hcleared
  · exact .allocationFailure hcleared

/-- Every request that answers a next state ends in one of these ways. -/
theorem exec_ending {i : Instr} (hreq : i.isRequest = true) (h : exec i s = .next t) : Ending s t := by
  cases ho : submitOperands i with
  | some o => exact exec_submit_ending (submitOperands_eq_some_iff.1 ho) h
  | none =>
    cases i with
    | openSession mode n align => exact exec_open_ending h
    | close => cases h; exact .success _ rfl (.inl rfl)
    | illegal header => cases h; exact .illegalCommand rfl
    | submitRaw | submitFill | submitPackBits | submitUnknown => cases ho
    | pbNop | pbLit | pbRep => cases hreq

end

/-- Settles O45, by the endings: a success has none of the four statuses, and an error has one of them and the state that
goes with it. -/
theorem errorsArePrecise : Obligations.ErrorsArePrecise := by
  intro i s t hreq hexec r hr
  cases exec_ending hreq hexec with
  | success r' hr' hstatus =>
    cases hr.symm.trans hr'
    rcases hstatus with hst | hst | hst <;> simp [hst]
  | fault h => subst h; cases hr; exact ⟨fun _ => rfl, nofun, nofun⟩
  | illegalCommand h => subst h; cases hr; exact ⟨fun _ => rfl, nofun, nofun⟩
  | invalidConfig h => subst h; cases hr; exact ⟨nofun, fun _ => rfl, nofun⟩
  | allocationFailure h => subst h; cases hr; exact ⟨nofun, nofun, fun _ => rfl⟩

end Sys2Proof.Machine
end

section
/-! PROOF. Between operations and along every step (R230, R231, R234): the idle step, the reset input, and PLANE_DEPTH,
which nothing writes. -/

namespace Sys2Proof.Machine

open Sys2Proof.Claims

/-! ## Idle and reset -/

/-- A reset puts every element of R22 to its reset value, whatever the state (R35). -/
theorem atReset_hardReset (s : State) : AtReset s.hardReset := ⟨rfl, rfl, rfl, rfl, rfl, rfl, rfl, rfl, rfl⟩

/-- Settles O9: the idle step is the identity, and the reset input leads to the reset state on the same windows. -/
theorem idleAndResetSteps : Obligations.IdleAndResetSteps := fun _ hr =>
  ⟨fun hb => step_idle hr hb, fun _ hb =>
    ⟨_, step_reset hr hb, atReset_hardReset _, State.hardReset_run _, State.hardReset_response _, State.hardReset_cfg _,
      State.hardReset_inbox _, State.hardReset_src _, State.hardReset_dst _⟩⟩

/-! ## PLANE_DEPTH -/

theorem assembleBlue_cfg (seq : List Byte) (cap : Word) (ps : Planes) (s : State) :
    (assembleBlue seq cap ps s).cfg = s.cfg := by
  rcases s.row_cases with hrow | ⟨hr, hg⟩
  · rw [assembleBlue_partial hrow]; rfl
  · rw [assembleBlue_complete hr hg]; rfl

theorem assemble_cfg {tag : PlaneTag} {seq : List Byte} {cap : Word} {s t : State}
    (h : assemble tag seq cap s = .next t) : t.cfg = s.cfg := by
  rcases assemble_next h with ⟨-, rfl⟩ | ⟨ps, -, ⟨-, rfl⟩ | ⟨-, rfl⟩ | ⟨-, rfl⟩⟩
  · rfl
  · rfl
  · rfl
  · exact assembleBlue_cfg ..

/-- The delivery keeps PLANE_DEPTH also where the samples do not fit the span, so it needs no invariant. -/
theorem deliver_cfg {seq : List Byte} {tag : PlaneTag} {cap : Word} {s t : State}
    (h : deliver seq tag cap s = .next t) : t.cfg = s.cfg := by
  cases hm : s.mode with
  | mono1 => rw [deliver_mono hm] at h; cases h; rfl
  | gray8 => rw [deliver_gray hm] at h; cases h; rfl
  | rgb24 => rw [deliver_rgb hm] at h; exact assemble_cfg h

theorem onRun_cfg {f : PbRun → PbRun} {s t : State} (h : onRun f s = .next t) : t.cfg = s.cfg := by
  obtain ⟨u, -, -, rfl⟩ := onRun_next h
  rfl

theorem execOpen_cfg {mode : ModeField} {n : BitVec 16} {align : Bool} {s t : State}
    (h : execOpen mode n align s = .next t) : t.cfg = s.cfg := by
  rcases open_next h with ⟨-, rfl⟩ | ⟨-, -, rfl⟩ | ⟨g, -, ⟨-, -, rfl⟩ | ⟨-, rfl⟩⟩ <;> rfl

theorem exec_cfg {i : Instr} {s t : State} (h : exec i s = .next t) : t.cfg = s.cfg := by
  cases ho : submitOperands i with
  | some o => cases exec_submit_effect (submitOperands_eq_some_iff.1 ho) h; rfl
  | none =>
    cases i with
    | openSession mode n align => exact execOpen_cfg h
    | close => cases h; rfl
    | illegal header => cases h; rfl
    | pbNop | pbLit | pbRep => exact onRun_cfg h
    | submitRaw | submitFill | submitPackBits | submitUnknown => cases ho

theorem abandon_cfg {i : Instr} {s t : State} (h : s.abandon i = .next t) : t.cfg = s.cfg := by
  obtain ⟨-, -, -, hcfg, -⟩ := abandon_atReset h
  exact hcfg

/-- Settles O16, by the cases of a step: the end of a PackBits SUBMIT and one of its tokens, idle, a request, a reset, a
request interrupted by one. -/
theorem planeDepthNeverChanges : Obligations.PlaneDepthNeverChanges := by
  intro s t h
  rcases step_next h with ⟨u, -, -, -, hdeliver⟩ | ⟨u, -, -, -, rfl⟩ | ⟨-, -, rfl⟩ | ⟨r, rest, i, -, -, -, hexec⟩ |
    ⟨rest, -, -, rfl⟩ | ⟨r, rest, i, -, -, -, habandon⟩
  · exact (deliver_cfg hdeliver).trans (State.endRun_cfg s)
  · exact State.setRun_cfg ..
  · rfl
  · exact (exec_cfg hexec).trans (State.load_cfg ..)
  · exact State.hardReset_cfg _
  · exact (abandon_cfg habandon).trans (State.load_cfg ..)

end Sys2Proof.Machine
end
